-- ==== Sys2Proof/Word.lean ====
section
/-!
DEFINITION. The words of the block: the command word and the response word (64 bits, R90, R100), the event code
(8 bits, R106), the tick word (32 bits, R7), and what carries an instruction to the block: a command word on the
command port, or an event code raised by a timer. The block has no byte-addressed memory (R70), so there is no byte order.
-/

namespace Sys2Proof

/-- One word on the command port (R90). -/
abbrev CmdWord := BitVec 64

/-- One word returned on the command port (R100). -/
abbrev RespWord := BitVec 64

/-- The code of an internal event (R106). -/
abbrev EventCode := BitVec 8

/-- A tick count or an interval (R7: TICK_W and IVL_W are 32). -/
abbrev Tick := BitVec 32

/-- An opaque callback handle (R7: FN_W is 16; R34: every value is legal). -/
abbrev Handle := BitVec 16

/-- A repeat limit or a fired count (R7: RPT_W is 8). -/
abbrev Count := BitVec 8

/-- A callback slot's index (R7: SLOT_W is 3 bits, 0..7; R55: every encodable index is valid). -/
abbrev SlotIx := Fin 8

/-- A servo channel's index (R7: N_CH is 10; R44: a channel the block holds is 0..9). -/
abbrev ChannelIx := Fin 10

/-- An instruction as it reaches the block: a whole command word (R71: the block sees only the assembled word), or
the code of an event raised by a timer (R106: the host cannot issue one on the command port). -/
inductive Wire where
  | command (w : CmdWord)
  | event (code : EventCode)
  deriving DecidableEq, Repr

end Sys2Proof
end

