-- ==== Sys2Proof/Syntax.lean ====
section
/-!
DEFINITION. The instructions: one constructor for each row of spec/opcode_table.json, the five host commands (R91)
and the three timer events (R106). Each operand has exactly the width of its field (R92 to R94, R97), so every term
of this type has an encoding.
-/

namespace Sys2Proof

inductive Instr where
  /-- REGISTER (R92, R129): callback handle, repeat limit, interval. -/
  | register (fn : Handle) (rpt : Count) (ivl : Tick)
  /-- CANCEL (R93, R131): slot index. -/
  | cancel (s : SlotIx)
  /-- SET_ANGLE (R94, R165): channel field, unsigned 0..15, and angle field, two's complement -128..127. -/
  | setAngle (c : BitVec 4) (a : BitVec 8)
  /-- READ_TICK (R95, R132). -/
  | readTick
  /-- CB_RETURN (R96, R136). -/
  | cbReturn
  /-- TICK_IRQ, event 0x01 (R106, R133). -/
  | tickIrq
  /-- SERVO_OVF_IRQ, event 0x02 (R106, R167). -/
  | servoOvfIrq
  /-- SERVO_CMP_IRQ, event 0x03 (R106, R169). -/
  | servoCmpIrq
  deriving DecidableEq, Repr

end Sys2Proof
end

