-- ==== Sys2Proof/Config.lean ====
section
/-!
DEFINITION. What an implementation fixes: the OPEN parameters of R7. A configuration as a platform offers it
(RawConfig), the same once it has been accepted (Config, a field of the state that no step writes), the reasons a launch
is refused for (R193), and, with no body, the constants behind State.reset: the platform's parameters and the draws of
the values the spec leaves unspecified at reset (R57, R231). Nothing can be proved about the value of one of these.
-/

namespace Sys2Proof

/-- A GPIO port (R76: port identifiers A-D). -/
inductive Port where
  | A | B | C | D
  deriving DecidableEq, Repr, Inhabited

/-- One GPIO line: a port and a pin index 0..7 (R76). -/
structure Pin where
  port : Port
  pin : Fin 8
  deriving DecidableEq, Repr, Inhabited

/-- The 32 GPIO lines, numbered eight to a port. -/
def Pin.ofIndex (n : Fin 32) : Pin :=
  { port := if n.val < 8 then .A else if n.val < 16 then .B else if n.val < 24 then .C else .D
    pin := ⟨n.val % 8, Nat.mod_lt _ (by decide)⟩ }

/-- A configuration as it is offered at launch, not checked yet (R8, R193): a port is any letter, a pin and a
channel any number. -/
structure RawConfig where
  tickInit : Tick
  initChannel : Nat
  /-- SERVO_LINE_MAP: for each channel a port letter and a pin number. -/
  lineMap : Vector (Char × Nat) 10
  tickPeriod : Nat
  servoPrescale : Nat
  servoPreload : Nat
  servoCycle : Nat
  deriving DecidableEq, Repr

/-- An accepted configuration (R7): the OPEN parameters, each in its range. The four timing parameters have no width in
the spec (R52: OPEN), so they are natural numbers; no rule reads them but to write them into a timing-only register. -/
structure Config where
  /-- TICK_INIT. -/
  tickInit : Tick
  /-- INIT_CHANNEL, in 0..9. -/
  initChannel : ChannelIx
  /-- SERVO_LINE_MAP. -/
  lineMap : Vector Pin 10
  /-- The value TICK_PERIOD, timing only. -/
  tickPeriod : Nat
  /-- The value SERVO_PRESCALE, timing only. -/
  servoPrescale : Nat
  /-- The value SERVO_PRELOAD, timing only. -/
  servoPreload : Nat
  /-- SERVO_CYCLE, timing only; no register holds it. -/
  servoCycle : Nat
  deriving DecidableEq, Repr, Inhabited

/-- Why a launch is refused (R193, in its order). -/
inductive ConfigReason where
  /-- INIT_CHANNEL outside 0..9. -/
  | initChannelOutOfRange
  /-- SERVO_LINE_MAP not injective. -/
  | lineMapNotInjective
  /-- SERVO_LINE_MAP names a port outside A..D. -/
  | portOutOfRange
  /-- SERVO_LINE_MAP names a pin outside 0..7. -/
  | pinOutOfRange
  deriving DecidableEq, Repr

/-- TICK_INIT of the platform behind State.reset: OPEN, any 32-bit value (D20). DESIGN CHOICE (log 7). -/
opaque Config.platformTickInit : Tick
/-- INIT_CHANNEL of that platform: OPEN, any of 0..9 (D21). DESIGN CHOICE (log 7). -/
opaque Config.platformInitChannel : ChannelIx
/-- Some arrangement of the 32 GPIO lines; its first ten lines are the platform's SERVO_LINE_MAP, which is therefore
any injective map (D22) and never another (R8). DESIGN CHOICE (log 6). -/
opaque Config.platformLines : Equiv.Perm (Fin 32)
/-- TICK_PERIOD, OPEN, timing only (D23). DESIGN CHOICE (log 9). -/
opaque Config.platformTickPeriod : Nat
/-- SERVO_PRESCALE, OPEN, timing only (D23). DESIGN CHOICE (log 9). -/
opaque Config.platformServoPrescale : Nat
/-- SERVO_PRELOAD, OPEN, timing only (D23). DESIGN CHOICE (log 9). -/
opaque Config.platformServoPreload : Nat
/-- SERVO_CYCLE, OPEN, timing only (D23). DESIGN CHOICE (log 9). -/
opaque Config.platformServoCycle : Nat

/-- The configuration behind State.reset: well formed (R8) and otherwise unknown. -/
def Config.platform : Config where
  tickInit := Config.platformTickInit
  initChannel := Config.platformInitChannel
  lineMap := Vector.ofFn fun c : ChannelIx => Pin.ofIndex (Config.platformLines (Fin.castLE (by decide) c))
  tickPeriod := Config.platformTickPeriod
  servoPrescale := Config.platformServoPrescale
  servoPreload := Config.platformServoPreload
  servoCycle := Config.platformServoCycle

/-! The draws: values the spec leaves unspecified at reset (R57). DESIGN CHOICE (log 8). -/

/-- slot[i].fn at reset (R34). -/
opaque Config.drawFn : SlotIx → Handle
/-- slot[i].interval at reset (R35). -/
opaque Config.drawInterval : SlotIx → Tick
/-- slot[i].repeatLimit at reset (R36). -/
opaque Config.drawRepeatLimit : SlotIx → Count
/-- slot[i].firedCount at reset (R37). -/
opaque Config.drawFiredCount : SlotIx → Count
/-- slot[i].nextDue at reset (R38). -/
opaque Config.drawNextDue : SlotIx → Tick
/-- servoCmpV at reset (R46). -/
opaque Config.drawServoCmpV : BitVec 8
/-- The register TICK_PERIOD at reset (R52). -/
opaque Config.drawTickPeriod : Nat
/-- The register TICK_COUNT at reset (R52). -/
opaque Config.drawTickCount : Nat
/-- The flag TICK_PF at reset (R52). -/
opaque Config.drawTickPf : Bool
/-- The register SERVO_PRESCALE at reset (R52). -/
opaque Config.drawServoPrescale : Nat
/-- The register SERVO_COUNT at reset (R52). -/
opaque Config.drawServoCount : Nat
/-- The flag SERVO_OVF_PF at reset (R52). -/
opaque Config.drawServoOvfPf : Bool
/-- The flag SERVO_CMP_PF at reset (R52). -/
opaque Config.drawServoCmpPf : Bool

end Sys2Proof
end

