-- ==== Sys2Proof/WellFormed.lean ====
section
/-!
DEFINITION. What is well formed. (1) A configuration (R8, R193): each check of its own. (2) A line of assembly (R108):
its operands are unbounded numbers, and it is well formed when each fits its field. An Instr needs no check: its operands
have exactly their fields' widths, so a word exists for every one of them (R108: the assembler accepts an encodable
operand that the block rejects).
-/

namespace Sys2Proof

/-- R8: INIT_CHANNEL is in 0..9. -/
def RawConfig.initChannelOk (r : RawConfig) : Bool := decide (r.initChannel < 10)

/-- R8: SERVO_LINE_MAP maps the ten channels to ten distinct pairs. -/
def RawConfig.lineMapInjective (r : RawConfig) : Bool := decide r.lineMap.toList.Nodup

/-- R8: a port is in A, B, C, D. -/
def portOk (p : Char) : Bool := p == 'A' || p == 'B' || p == 'C' || p == 'D'

/-- R8: every port is in A, B, C, D. -/
def RawConfig.portsOk (r : RawConfig) : Bool := r.lineMap.toList.all fun l => portOk l.1

/-- R8: every pin is in 0..7. -/
def RawConfig.pinsOk (r : RawConfig) : Bool := r.lineMap.toList.all fun l => decide (l.2 < 8)

/-- R8: a configuration that may be launched. -/
def RawConfig.wellFormed (r : RawConfig) : Bool :=
  r.initChannelOk && r.lineMapInjective && r.portsOk && r.pinsOk

/-- R8 for an accepted configuration: its ranges hold by its types; the map is injective. -/
abbrev Config.WellFormed (c : Config) : Prop := c.lineMap.toList.Nodup

/-- A line of the spec's assembly syntax (R108), its three pseudo-instructions among them (R109). -/
inductive Asm where
  | register (fn interval repeatLimit : Nat)
  | cancel (slot : Nat)
  | setAngle (ch : Nat) (angle : Int)
  | readTick
  | cbReturn
  /-- PERIODIC fn, ivl. -/
  | periodic (fn ivl : Nat)
  /-- ONESHOT fn, ivl. -/
  | oneshot (fn ivl : Nat)
  /-- SERVO_OFF ch. -/
  | servoOff (ch : Nat)
  deriving DecidableEq, Repr

/-- R108: every operand lies in its field's range. -/
def Asm.wellFormed : Asm → Bool
  | .register fn interval repeatLimit => decide (fn ≤ 0xFFFF) && decide (interval ≤ 0xFFFFFFFF) && decide (repeatLimit ≤ 255)
  | .cancel slot => decide (slot ≤ 7)
  | .setAngle ch angle => decide (ch ≤ 15) && decide (-128 ≤ angle) && decide (angle ≤ 127)
  | .readTick => true
  | .cbReturn => true
  | .periodic fn ivl => decide (fn ≤ 0xFFFF) && decide (ivl ≤ 0xFFFFFFFF)
  | .oneshot fn ivl => decide (fn ≤ 0xFFFF) && decide (ivl ≤ 0xFFFFFFFF)
  | .servoOff ch => decide (ch ≤ 15)

end Sys2Proof
end

