-- ==== Sys2Proof/Decode.lean ====
section
/-!
DEFINITION. The decoder, total over every command word (R105) and every event code (R106), refusing by name; the
encoder, from the same format tables (R92 to R96, R106); the opcode table as rows of mask and match; the assembler of
R108 and R109.
-/

namespace Sys2Proof

/-- Why bits are no instruction. -/
inductive Reject where
  /-- R98: `OP` is 0x0 or 0x6..0xF. The block answers ILLEGAL_COMMAND. -/
  | reservedOp (op : BitVec 4)
  /-- R99: `OP` is legal and a bit marked reserved is 1. The block answers ILLEGAL_COMMAND. -/
  | reservedBits (op : BitVec 4)
  /-- R106: the code names no event and is never raised. -/
  | noSuchEvent (code : EventCode)
  deriving DecidableEq, Repr

/-! ### Fields of a command word (R90, R97) -/

/-- `OP = cmd[63:60]` (R90). -/
def opField (w : CmdWord) : BitVec 4 := w.extractLsb' 60 4
/-- `fn = cmd[59:44]` (R97). -/
def fnField (w : CmdWord) : Handle := w.extractLsb' 44 16
/-- `repeatLimit = cmd[39:32]` (R97). -/
def rptField (w : CmdWord) : Count := w.extractLsb' 32 8
/-- `interval = cmd[31:0]` (R97). -/
def ivlField (w : CmdWord) : Tick := w.extractLsb' 0 32
/-- `s = cmd[2:0]` (R97). -/
def slotField (w : CmdWord) : SlotIx := (w.extractLsb' 0 3).toFin
/-- `c = cmd[11:8]` (R97). -/
def chField (w : CmdWord) : BitVec 4 := w.extractLsb' 8 4
/-- `cmd[7:0]`, the angle in two's complement (R97). -/
def angField (w : CmdWord) : BitVec 8 := w.extractLsb' 0 8

/-- The decoder of a command word, case by case as R105 writes it. -/
def decodeCommand (w : CmdWord) : Except Reject Instr :=
  if opField w = 1 then
    if w.extractLsb' 40 4 ≠ 0 then .error (.reservedBits 1)
    else .ok (.register (fnField w) (rptField w) (ivlField w))
  else if opField w = 2 then
    if w.extractLsb' 3 57 ≠ 0 then .error (.reservedBits 2) else .ok (.cancel (slotField w))
  else if opField w = 3 then
    if w.extractLsb' 12 48 ≠ 0 then .error (.reservedBits 3) else .ok (.setAngle (chField w) (angField w))
  else if opField w = 4 then
    if w.extractLsb' 0 60 ≠ 0 then .error (.reservedBits 4) else .ok .readTick
  else if opField w = 5 then
    if w.extractLsb' 0 60 ≠ 0 then .error (.reservedBits 5) else .ok .cbReturn
  else .error (.reservedOp (opField w))

/-- The events by their codes (R106). -/
def decodeEvent (code : EventCode) : Except Reject Instr :=
  if code = 1 then .ok .tickIrq
  else if code = 2 then .ok .servoOvfIrq
  else if code = 3 then .ok .servoCmpIrq
  else .error (.noSuchEvent code)

/-- The instruction that what arrives stands for. -/
def decode : Wire → Except Reject Instr
  | .command w => decodeCommand w
  | .event code => decodeEvent code

/-- The encoder: the formats R, S, A, N (R92 to R96) and the event codes (R106). -/
def encode : Instr → Wire
  | .register fn rpt ivl => .command (0x1#4 ++ fn ++ 0x0#4 ++ rpt ++ ivl)
  | .cancel s => .command (0x2#4 ++ 0#57 ++ (BitVec.ofFin s : BitVec 3))
  | .setAngle c a => .command (0x3#4 ++ 0#48 ++ c ++ a)
  | .readTick => .command (0x4#4 ++ 0#60)
  | .cbReturn => .command (0x5#4 ++ 0#60)
  | .tickIrq => .event 0x01#8
  | .servoOvfIrq => .event 0x02#8
  | .servoCmpIrq => .event 0x03#8

/-! ### The opcode table as rows of mask and match -/

/-- A row of spec/opcode_table.json for a command: the word's bits under `mask` are `pattern`. -/
structure CommandRow where
  mnemonic : String
  mask : CmdWord
  pattern : CmdWord
  deriving DecidableEq, Repr

/-- The five command rows (R92 to R96). -/
def commandRows : List CommandRow :=
  [ ⟨"REGISTER", 0xF0000F0000000000, 0x1000000000000000⟩,
    ⟨"CANCEL", 0xFFFFFFFFFFFFFFF8, 0x2000000000000000⟩,
    ⟨"SET_ANGLE", 0xFFFFFFFFFFFFF000, 0x3000000000000000⟩,
    ⟨"READ_TICK", 0xFFFFFFFFFFFFFFFF, 0x4000000000000000⟩,
    ⟨"CB_RETURN", 0xFFFFFFFFFFFFFFFF, 0x5000000000000000⟩ ]

/-- The table's mnemonic of an instruction. -/
def Instr.mnemonic : Instr → String
  | .register _ _ _ => "REGISTER"
  | .cancel _ => "CANCEL"
  | .setAngle _ _ => "SET_ANGLE"
  | .readTick => "READ_TICK"
  | .cbReturn => "CB_RETURN"
  | .tickIrq => "TICK_IRQ"
  | .servoOvfIrq => "SERVO_OVF_IRQ"
  | .servoCmpIrq => "SERVO_CMP_IRQ"

/-- A word lies in a row of the command table. -/
def CommandRow.matchesWord (r : CommandRow) (w : CmdWord) : Bool := w &&& r.mask == r.pattern

/-! ### Assembler (R108, R109) -/

/-- R109: a pseudo-instruction stands for one command; any other line for itself. -/
def Asm.expand : Asm → Asm
  | .periodic fn ivl => .register fn ivl 0
  | .oneshot fn ivl => .register fn ivl 1
  | .servoOff ch => .setAngle ch (-1)
  | a => a

/-- The instruction an expanded line stands for, its operands cut to their fields. -/
def Asm.toInstr : Asm → Instr
  | .register fn interval repeatLimit => .register (.ofNat 16 fn) (.ofNat 8 repeatLimit) (.ofNat 32 interval)
  | .cancel slot => .cancel ⟨slot % 8, Nat.mod_lt _ (by decide)⟩
  | .setAngle ch angle => .setAngle (.ofNat 4 ch) (.ofInt 8 angle)
  | .readTick => .readTick
  | .cbReturn => .cbReturn
  | .periodic fn ivl => .register (.ofNat 16 fn) 0 (.ofNat 32 ivl)
  | .oneshot fn ivl => .register (.ofNat 16 fn) 1 (.ofNat 32 ivl)
  | .servoOff ch => .setAngle (.ofNat 4 ch) (.ofInt 8 (-1))

/-- R108: the assembler refuses an operand outside its field's range and accepts every encodable one. -/
def Asm.assemble (a : Asm) : Option Instr := if a.wellFormed then some a.expand.toInstr else none

/-! ### Table words -/

/-- Bits of an opcode-table row as they reach the block: an event row has 8 bits, a command row 64. -/
def tableWire (nbits w : Nat) : Wire :=
  if nbits ≤ 8 then .event (.ofNat 8 w) else .command (.ofNat 64 w)

/-- The instruction the decoder reads from a table row's bits; none where it refuses them. -/
def decodeTableWord (nbits w : Nat) : Option Instr :=
  match decode (tableWire nbits w) with
  | .ok i => some i
  | .error _ => none

end Sys2Proof
end

