-- ==== Sys2Proof/Machine/State.lean ====
section
/-!
DEFINITION. The state: all of 10_state.md (R32 to R50, and the timer registers of R52), the launch configuration, the
agents' moves to come, and the observation of the run so far. The state after reset is R57's.
-/

namespace Sys2Proof.Machine

/-- One entry of the callback slot table (R33 to R38). Its `active` bit is in `State.activeMask` (R39). While that bit
is 0 the five fields are dead (R40). -/
structure Slot where
  fn : Handle
  interval : Tick
  repeatLimit : Count
  firedCount : Count
  nextDue : Tick
  deriving DecidableEq, Repr, Inhabited

/-- The execution context (R49). -/
inductive Ctx where
  | normal
  | callback (s : SlotIx)
  deriving DecidableEq, Repr

/-- What the block presents to the outside (R10, R107): the word returned on the command port, a callback invocation,
a call of the GPIO adapter's `write`. -/
inductive Output where
  | response (w : RespWord)
  | fire (s : SlotIx) (fn : Handle)
  | gpioWrite (port : Port) (pin : Fin 8) (level : Bool)
  deriving DecidableEq, Repr

/-- What a timer's own hardware does to a timing-only register (R52: counting, raising and dropping a pending flag).
No rule reads these registers (R247). DESIGN CHOICE (log 9, log 10). -/
inductive TimerMove where
  | tickCount (v : Nat)
  | tickPf (b : Bool)
  | servoCount (v : Nat)
  | servoOvfPf (b : Bool)
  | servoCmpPf (b : Bool)
  deriving DecidableEq, Repr

/-- One move of one agent (R9): the host puts a word on the command port or a timer raises an event (`wire`), the host
takes its environment action SET_GIE (R206), a timer's hardware touches a timing-only register. -/
inductive Move where
  | wire (x : Wire)
  | setGie (b : Bool)
  | timer (t : TimerMove)
  deriving DecidableEq, Repr

/-- The machine stops with a fault. There is none: R190, "No command or handler stops the block", and R192. So this
type has no constructor, and no step can answer a fault. -/
inductive Fault where
  deriving DecidableEq, Repr

/-- What the model gives no meaning to. -/
inductive Refusal where
  /-- An instruction without a meaning; raised by an arm of `exec` alone, and by none now. Safe. -/
  | notModelled (mnemonic : String)
  /-- R193: a configuration that is not well formed is refused before the first step. Raised by `launch`. Safe: such a
  configuration has no run. -/
  | configRefused (reason : ConfigReason)
  /-- R194, R206: SET_GIE in callback context is a move the host has not. Raised by `takeMove`. Unsafe where a real
  host does it all the same (93 I3 says so): claims say nothing about such a run. -/
  | setGieInCallback
  /-- R106: the code names no event and is never raised. Raised by `takeMove`. Safe: no timer raises it. -/
  | noSuchEvent (code : EventCode)
  deriving DecidableEq, Repr

structure State where
  /-- The launch configuration (R7, R8); no step writes it. -/
  cfg : Config
  /-- The tick counter (R32). -/
  tick : Tick
  /-- The callback slot table (R33). -/
  slots : Vector Slot 8
  /-- Bit `i` is `slot[i].active` (R39). -/
  activeMask : BitVec 8
  /-- The agenda's enable, which is TICK_IE (R41, R52). -/
  agendaRunning : Bool
  /-- The servo channel table, two's complement (R43). -/
  angle : Vector (BitVec 8) 10
  /-- The channel being served (R44). -/
  currentChannel : ChannelIx
  /-- The multiplexer's enable, which is SERVO_IE (R45, R52). -/
  servoRunning : Bool
  /-- The compare register SERVO_CMPV (R46, R52). -/
  servoCmpV : BitVec 8
  /-- The current cycle's compare match is still to come (R47). -/
  cmpOwed : Bool
  /-- A compare match has occurred in the current cycle (R47). -/
  cmpDone : Bool
  /-- The level of each channel's line (R48). -/
  line : Vector Bool 10
  /-- The execution context (R49). -/
  ctx : Ctx
  /-- The global interrupt enable (R50). -/
  gie : Bool
  /-- The register TICK_PERIOD, timing only (R52). -/
  tickPeriod : Nat
  /-- The register TICK_COUNT, timing only (R52). -/
  tickCount : Nat
  /-- The flag TICK_PF, which gates nothing (R52, R54). -/
  tickPf : Bool
  /-- The register SERVO_PRESCALE, timing only (R52). -/
  servoPrescale : Nat
  /-- The register SERVO_COUNT, timing only (R52). -/
  servoCount : Nat
  /-- The flag SERVO_OVF_PF, which gates nothing (R52, R54). -/
  servoOvfPf : Bool
  /-- The flag SERVO_CMP_PF, which gates nothing (R52, R54). -/
  servoCmpPf : Bool
  /-- The agents' moves to come, the next one first (R78, R199). The model's own field (log 1). -/
  moves : List Move
  /-- The observation of the run so far, oldest first (R10). The model's own field (log 4). -/
  outputs : List Output
  deriving DecidableEq, Repr

/-- The values R57 leaves unspecified at reset. -/
structure Draw where
  slots : Vector Slot 8
  servoCmpV : BitVec 8
  tickPeriod : Nat
  tickCount : Nat
  tickPf : Bool
  servoPrescale : Nat
  servoCount : Nat
  servoOvfPf : Bool
  servoCmpPf : Bool
  deriving DecidableEq, Repr

/-- The draw behind State.reset, of which nothing is known. DESIGN CHOICE (log 8). -/
def Draw.platform : Draw where
  slots := Vector.ofFn fun i : SlotIx =>
    { fn := Config.drawFn i
      interval := Config.drawInterval i
      repeatLimit := Config.drawRepeatLimit i
      firedCount := Config.drawFiredCount i
      nextDue := Config.drawNextDue i }
  servoCmpV := Config.drawServoCmpV
  tickPeriod := Config.drawTickPeriod
  tickCount := Config.drawTickCount
  tickPf := Config.drawTickPf
  servoPrescale := Config.drawServoPrescale
  servoCount := Config.drawServoCount
  servoOvfPf := Config.drawServoOvfPf
  servoCmpPf := Config.drawServoCmpPf

/-- The state after reset (R57) under a configuration and a draw of the unspecified values. -/
def State.resetWith (c : Config) (d : Draw) : State where
  cfg := c
  tick := c.tickInit
  slots := d.slots
  activeMask := 0x00
  agendaRunning := false
  angle := Vector.replicate 10 (BitVec.ofInt 8 (-1))
  currentChannel := c.initChannel
  servoRunning := false
  servoCmpV := d.servoCmpV
  cmpOwed := false
  cmpDone := false
  line := Vector.replicate 10 false
  ctx := .normal
  gie := false
  tickPeriod := d.tickPeriod
  tickCount := d.tickCount
  tickPf := d.tickPf
  servoPrescale := d.servoPrescale
  servoCount := d.servoCount
  servoOvfPf := d.servoOvfPf
  servoCmpPf := d.servoCmpPf
  moves := []
  outputs := []

/-- The state right after reset (R57, R230): the platform's configuration, which is well formed and otherwise unknown,
and a draw of which nothing is known. -/
def State.reset : State := State.resetWith Config.platform Draw.platform

end Sys2Proof.Machine
end

