-- ==== Sys2Proof/Machine/Flags.lean ====
section
/-!
DEFINITION. The block's flags: the status of a response (R51, R101) and the response word (R100), and the event gate
(R198). There are no condition codes (R51).
-/

namespace Sys2Proof.Machine

/-- The status codes in use (R101); 7..15 are never returned. -/
inductive Status where
  | ok
  | schedulerFull
  | invalidChannel
  | invalidAngle
  | invalidInterval
  | illegalCommand
  | notInCallback
  deriving DecidableEq, Repr

/-- The code of a status (R101). -/
def statusCode : Status → BitVec 4
  | .ok => 0
  | .schedulerFull => 1
  | .invalidChannel => 2
  | .invalidAngle => 3
  | .invalidInterval => 4
  | .illegalCommand => 5
  | .notInCallback => 6

/-- The response word, STATUS[63:60], zero[59:32], VALUE[31:0] (R100). -/
def respWord (st : Status) (value : BitVec 32) : RespWord := statusCode st ++ 0#28 ++ value

/-- The context is normal (R49). -/
def inNormal (s : State) : Bool := decide (s.ctx = .normal)

/-- The gate of TICK_IRQ (R198). -/
def gateTick (s : State) : Bool := s.agendaRunning && s.gie && inNormal s

/-- The gate of SERVO_OVF_IRQ (R198, R168). -/
def gateOvf (s : State) : Bool := s.servoRunning && s.gie && inNormal s && !s.cmpOwed

/-- The gate of SERVO_CMP_IRQ (R198, R170). -/
def gateCmp (s : State) : Bool := s.servoRunning && s.gie && inNormal s && !s.cmpDone

end Sys2Proof.Machine
end

