-- ==== Sys2Proof/Machine/Operands.lean ====
section
/-!
DEFINITION. The operand forms and the arithmetic over them (R97, R126, R161, R164): the channel field and its range
check, the signed angle and its range check, the committed pulse length, the next channel, the due time, the due test.
Bits are read as numbers, computed exactly, and narrowed at the end.
-/

namespace Sys2Proof.Machine

/-- The channel a 4-bit channel field names: 0..9; 10..15 name none (R55, R164). -/
def channelOf (c : BitVec 4) : Option ChannelIx :=
  if h : c.toNat < 10 then some ⟨c.toNat, h⟩ else none

/-- The angle is in [-1, 100] (R164, R165). -/
def angleLegal (a : BitVec 8) : Bool := decide (-1 ≤ a.toInt) && decide (a.toInt ≤ 100)

/-- An angle of -1 means the channel is disabled (R43). -/
def angleDisabled (a : BitVec 8) : Bool := decide (a.toInt = -1)

/-- The committed pulse length, angle + 150 (R161). For 0..100 it is 150..250; outside, where no run leads, it is cut
to 8 bits (log 16). -/
def committedPulse (a : BitVec 8) : BitVec 8 := BitVec.ofInt 8 (a.toInt + 150)

/-- The channel after `c`, 0 after 9 (R44, R167). -/
def nextChannel (c : ChannelIx) : ChannelIx :=
  if h : c.val + 1 < 10 then ⟨c.val + 1, h⟩ else ⟨0, by decide⟩

/-- `tick +_32 interval` (R126). -/
def dueTime (tick interval : Tick) : Tick := BitVec.ofNat 32 (tick.toNat + interval.toNat)

/-- `nextDue <=u tick` (R126). -/
def isDue (nextDue tick : Tick) : Bool := decide (nextDue.toNat ≤ tick.toNat)

/-- A slot index as the value field of a response, `zext_32(s)` (R102). -/
def slotValue (s : SlotIx) : BitVec 32 := BitVec.ofNat 32 s.val

end Sys2Proof.Machine
end

