-- ==== Sys2Proof/Machine/Ops.lean ====
section
/-!
DEFINITION. The named operations over the state that the meanings share: emitting outputs and responding (R12, R100),
the slot table and the active mask (R33, R39, R122), arming and disarming the timers (R123, R124, R162), driving a
line (R160), entering a callback and returning from it (R134, R136, R202, R203), the host's SET_GIE (R206), and the
timers' own moves. The block has no traps (R192): entering the callback context is its one transfer of control.
-/

namespace Sys2Proof.Machine

/-! ### Outputs -/

/-- `emit` (R12): the output is observed after all earlier ones (R10). -/
def State.emit (s : State) (o : Output) : State := { s with outputs := s.outputs ++ [o] }

/-- `respond(status, value)` (R12, R100). -/
def State.respond (s : State) (st : Status) (value : BitVec 32) : State := s.emit (.response (respWord st value))

/-- What an illegal command word performs, and nothing else (R98, R99, R105). -/
def State.illegalCommand (s : State) : State := s.respond .illegalCommand 0

/-! ### The slot table and the active mask -/

/-- The slot indexes in scan order (R133). -/
def slotOrder : List SlotIx := [0, 1, 2, 3, 4, 5, 6, 7]

/-- `activeMask[i]` (R39). -/
def maskBit (m : BitVec 8) (i : SlotIx) : Bool := m.getLsbD i.val

/-- `activeMask[i] <- 1`. -/
def maskSet (m : BitVec 8) (i : SlotIx) : BitVec 8 := m ||| (1#8 <<< i.val)

/-- `activeMask[i] <- 0`. -/
def maskClear (m : BitVec 8) (i : SlotIx) : BitVec 8 := m &&& ~~~(1#8 <<< i.val)

/-- The least index whose bit is 0; none exactly when the mask is 0xFF (R122). -/
def lowestFree (m : BitVec 8) : Option SlotIx := slotOrder.find? fun i => !maskBit m i

/-- Slot `i` is active (R39). -/
def State.active (s : State) (i : SlotIx) : Bool := maskBit s.activeMask i

/-- Slot `i` of the table. -/
def State.slot (s : State) (i : SlotIx) : Slot := s.slots[i]

/-- The table with slot `i` replaced. -/
def State.setSlot (s : State) (i : SlotIx) (v : Slot) : State := { s with slots := s.slots.set i.val v i.isLt }

/-- The slot becomes active (R129). -/
def State.activate (s : State) (i : SlotIx) : State := { s with activeMask := maskSet s.activeMask i }

/-- The slot's bit becomes 0 (R131, R135). -/
def State.clearActive (s : State) (i : SlotIx) : State := { s with activeMask := maskClear s.activeMask i }

/-! ### Arming and disarming -/

/-- What arming does to `gie`: in normal context it becomes 1, in callback context it is not written (R123, R162). -/
def State.armedGie (s : State) : Bool := if inNormal s then true else s.gie

/-- `armAgenda` (R123). -/
def State.armAgenda (s : State) : State :=
  { s with tickPeriod := s.cfg.tickPeriod, tickPf := false, agendaRunning := true, gie := s.armedGie }

/-- `if agendaRunning == 0: armAgenda()` (R129). -/
def State.armAgendaIfIdle (s : State) : State := if s.agendaRunning then s else s.armAgenda

/-- `disarmAgenda` (R124). -/
def State.disarmAgenda (s : State) : State := { s with agendaRunning := false }

/-- `if activeMask == 0x00: disarmAgenda()` (R131, R135). -/
def State.disarmAgendaIfEmpty (s : State) : State := if s.activeMask = 0x00 then s.disarmAgenda else s

/-- The slot becomes inactive, and the agenda is disarmed when no slot remains active (R131, R135). -/
def State.deactivate (s : State) (i : SlotIx) : State := (s.clearActive i).disarmAgendaIfEmpty

/-- `armServo` (R162). -/
def State.armServo (s : State) : State :=
  { s with
    servoPrescale := s.cfg.servoPrescale
    servoCount := s.cfg.servoPreload
    servoOvfPf := false
    servoCmpPf := false
    servoRunning := true
    gie := s.armedGie }

/-- `if servoRunning == 0: armServo()` (R165). -/
def State.armServoIfIdle (s : State) : State := if s.servoRunning then s else s.armServo

/-! ### Lines -/

/-- The angle commanded for a channel (R43). -/
def State.angleOf (s : State) (c : ChannelIx) : BitVec 8 := s.angle[c]

/-- `angle[c] <- a` (R165). -/
def State.setAngle (s : State) (c : ChannelIx) (a : BitVec 8) : State := { s with angle := s.angle.set c.val a c.isLt }

/-- The GPIO pin a channel's line is steered to (R160). -/
def State.pinOf (s : State) (c : ChannelIx) : Pin := s.cfg.lineMap[c]

/-- `line[c] <- v; emit GpioWrite(SERVO_LINE_MAP(c), v)` (R160). -/
def State.driveLine (s : State) (c : ChannelIx) (v : Bool) : State :=
  { s with line := s.line.set c.val v c.isLt }.emit (.gpioWrite (s.pinOf c).port (s.pinOf c).pin v)

/-! ### Contexts -/

/-- Entry into callback context: the invocation is presented and events are masked by the context (R134, R202).
Nothing is saved (R202). -/
def State.enterCallback (s : State) (i : SlotIx) (fn : Handle) : State :=
  { s.emit (.fire i fn) with ctx := .callback i }

/-- Return from callback context: `ctx` becomes normal, and nothing else is restored or written (R136, R203). -/
def State.leaveCallback (s : State) : State := { s with ctx := .normal }

/-! ### Moves that are no instruction -/

/-- SET_GIE (R206): in normal context it writes `gie`, with no response; in callback context the host has no such move
(R194). -/
def State.setGie (s : State) (b : Bool) : Host.Outcome State Fault Refusal :=
  if inNormal s then .next { s with gie := b } else .refused .setGieInCallback

/-- A timer's hardware writes one of its timing-only registers (R52). -/
def State.timerMove (s : State) : TimerMove → State
  | .tickCount v => { s with tickCount := v }
  | .tickPf b => { s with tickPf := b }
  | .servoCount v => { s with servoCount := v }
  | .servoOvfPf b => { s with servoOvfPf := b }
  | .servoCmpPf b => { s with servoCmpPf := b }

end Sys2Proof.Machine
end

