-- ==== Sys2Proof/Machine/Agenda.lean ====
section
/-!
DEFINITION. The agenda dispatcher and the tick source (40_agenda.md): REGISTER, CANCEL, READ_TICK, CB_RETURN and
TICK_IRQ. None of them ends in a fault or a refusal (R190).
-/

namespace Sys2Proof.Machine

/-! ### REGISTER -/

/-- The five fields of a new registration (R129). -/
def newSlot (tick : Tick) (fn : Handle) (rpt : Count) (ivl : Tick) : Slot :=
  { fn := fn, interval := ivl, repeatLimit := rpt, firedCount := 0, nextDue := dueTime tick ivl }

/-- The registration takes slot `i` and arms an idle agenda (R129). -/
def State.occupy (s : State) (i : SlotIx) (fn : Handle) (rpt : Count) (ivl : Tick) : State :=
  ((s.setSlot i (newSlot s.tick fn rpt ivl)).activate i).armAgendaIfIdle

/-- REGISTER (R129): the interval is checked first, then the table. -/
def execRegister (fn : Handle) (rpt : Count) (ivl : Tick) (s : State) : Host.Outcome State Fault Refusal :=
  .next <|
    if ivl = 0 then s.respond .invalidInterval 0
    else match lowestFree s.activeMask with
      | none => s.respond .schedulerFull 0
      | some i => (s.occupy i fn rpt ivl).respond .ok (slotValue i)

/-! ### CANCEL, READ_TICK, CB_RETURN -/

/-- CANCEL (R131): an inactive slot is left as it is. -/
def execCancel (k : SlotIx) (s : State) : Host.Outcome State Fault Refusal :=
  .next ((if s.active k then s.deactivate k else s).respond .ok 0)

/-- READ_TICK (R132). -/
def execReadTick (s : State) : Host.Outcome State Fault Refusal := .next (s.respond .ok s.tick)

/-- CB_RETURN (R136). -/
def execCbReturn (s : State) : Host.Outcome State Fault Refusal :=
  .next (if inNormal s then s.respond .notInCallback 0 else s.leaveCallback.respond .ok 0)

/-! ### TICK_IRQ -/

/-- A slot is eligible (R121). The third condition never decides in a reachable state; it is kept as the rule has it. -/
def State.eligible (s : State) (i : SlotIx) : Bool :=
  s.active i && isDue (s.slot i).nextDue s.tick &&
    (decide ((s.slot i).repeatLimit = 0) || decide ((s.slot i).firedCount.toNat < (s.slot i).repeatLimit.toNat))

/-- The scan (R133): the first eligible slot in index order, if there is one. -/
def State.scan (s : State) : Option SlotIx := slotOrder.find? s.eligible

/-- The slot with its next due time taken from the current tick (R127, R135). -/
def Slot.advance (v : Slot) (tick : Tick) : Slot := { v with nextDue := dueTime tick v.interval }

/-- The fire-count update (R135). -/
def State.fireUpdate (s : State) (i : SlotIx) : State :=
  if (s.slot i).repeatLimit = 0 then s.setSlot i ((s.slot i).advance s.tick)
  else
    let counted : Slot := { s.slot i with firedCount := (s.slot i).firedCount + 1 }
    if counted.firedCount = counted.repeatLimit then (s.setSlot i counted).deactivate i
    else s.setSlot i (counted.advance s.tick)

/-- Firing a slot (R134): its update comes first (R125), then the invocation and the callback context. -/
def State.fireSlot (s : State) (i : SlotIx) : State := (s.fireUpdate i).enterCallback i (s.slot i).fn

/-- The increment at the head of the tick handler (R133). -/
def State.countTick (s : State) : State := { s with tickCount := 0, tick := s.tick + 1 }

/-- The tick handler (R133): one tick, a scan, at most one firing. -/
def State.tickHandler (s : State) : State :=
  match s.countTick.scan with
  | none => s.countTick
  | some i => s.countTick.fireSlot i

/-- TICK_IRQ (R133): it occurs exactly when its gate holds (R198); else nothing happens (log 2). -/
def execTickIrq (s : State) : Host.Outcome State Fault Refusal :=
  .next (if gateTick s then s.tickHandler else s)

end Sys2Proof.Machine
end

