-- ==== Sys2Proof/Machine/Servo.lean ====
section
/-!
DEFINITION. The servo multiplexer (41_servo.md): SET_ANGLE, SERVO_OVF_IRQ and SERVO_CMP_IRQ. None of them ends in a
fault or a refusal (R190).
-/

namespace Sys2Proof.Machine

/-! ### SET_ANGLE -/

/-- SET_ANGLE (R164, R165): the channel is checked first, then the angle; a rejected command arms nothing. -/
def execSetAngle (c : BitVec 4) (a : BitVec 8) (s : State) : Host.Outcome State Fault Refusal :=
  .next <|
    match channelOf c with
    | none => s.respond .invalidChannel 0
    | some ch =>
      if angleLegal a then ((s.setAngle ch a).armServoIfIdle).respond .ok 0
      else s.respond .invalidAngle 0

/-! ### SERVO_OVF_IRQ -/

/-- A channel cycle begins: the countdown is reprimed, the next channel is current, no compare match has come yet (R167). -/
def State.beginCycle (s : State) : State :=
  { s with servoCount := s.cfg.servoPreload, currentChannel := nextChannel s.currentChannel, cmpDone := false }

/-- The current channel's pulse begins (R167): its compare value is loaded, its line raised, its compare match owed. -/
def State.beginPulse (s : State) : State :=
  { { s with servoCmpV := committedPulse (s.angleOf s.currentChannel) }.driveLine s.currentChannel true with cmpOwed := true }

/-- The overflow handler (R167): a disabled channel's cycle begins without a pulse. -/
def State.ovfHandler (s : State) : State :=
  if angleDisabled (s.beginCycle.angleOf s.beginCycle.currentChannel) then s.beginCycle else s.beginCycle.beginPulse

/-- SERVO_OVF_IRQ (R167): it occurs exactly when its gate holds (R168, R198); else nothing happens (log 2). -/
def execServoOvfIrq (s : State) : Host.Outcome State Fault Refusal :=
  .next (if gateOvf s then s.ovfHandler else s)

/-! ### SERVO_CMP_IRQ -/

/-- The compare-match handler (R169): the current line is lowered whatever its channel's angle is. -/
def State.cmpHandler (s : State) : State :=
  { s.driveLine s.currentChannel false with cmpOwed := false, cmpDone := true }

/-- SERVO_CMP_IRQ (R169): it occurs exactly when its gate holds (R170, R198); else nothing happens (log 2). -/
def execServoCmpIrq (s : State) : Host.Outcome State Fault Refusal :=
  .next (if gateCmp s then s.cmpHandler else s)

end Sys2Proof.Machine
end

