-- ==== Sys2Proof/Machine/Dispatch.lean ====
section
/-!
DEFINITION. The one dispatch over the instructions: each constructor's arm is one call of its meaning.
-/

namespace Sys2Proof.Machine

def exec (i : Instr) (s : State) : Host.Outcome State Fault Refusal :=
  match i with
  | .register fn rpt ivl => Sys2Proof.Machine.execRegister fn rpt ivl s
  | .cancel k => Sys2Proof.Machine.execCancel k s
  | .setAngle c a => Sys2Proof.Machine.execSetAngle c a s
  | .readTick => Sys2Proof.Machine.execReadTick s
  | .cbReturn => Sys2Proof.Machine.execCbReturn s
  | .tickIrq => Sys2Proof.Machine.execTickIrq s
  | .servoOvfIrq => Sys2Proof.Machine.execServoOvfIrq s
  | .servoCmpIrq => Sys2Proof.Machine.execServoCmpIrq s

end Sys2Proof.Machine
end

