-- ==== Sys2Proof/Machine/Agents.lean ====
section
/-!
DEFINITION. What the block does with one move of one agent (R9), and the launch (R193): a command word is decoded and
run, an illegal one answered (R98, R99); a raised event's handler is run; SET_GIE and the timers' own moves are taken;
a configuration is checked before the first step.
-/

namespace Sys2Proof.Machine

/-- What bits that are no instruction come to: an illegal command word is answered ILLEGAL_COMMAND (R98, R99, R105);
a code that names no event is never raised (R106), so the model refuses it. -/
def rejected (r : Reject) (s : State) : Host.Outcome State Fault Refusal :=
  match r with
  | .reservedOp _ => .next s.illegalCommand
  | .reservedBits _ => .next s.illegalCommand
  | .noSuchEvent code => .refused (.noSuchEvent code)

/-- One instruction's bits, decoded and run as one atomic step (R73). -/
def takeWire (x : Wire) (s : State) : Host.Outcome State Fault Refusal :=
  match decode x with
  | .ok i => exec i s
  | .error r => rejected r s

/-- One agent's move (R9). -/
def takeMove (m : Move) (s : State) : Host.Outcome State Fault Refusal :=
  match m with
  | .wire x => takeWire x s
  | .setGie b => s.setGie b
  | .timer t => .next (s.timerMove t)

/-- The next move is taken off the list and performed; with none to come the block waits, unchanged (R58, R232). -/
def nextMove (s : State) : Host.Outcome State Fault Refusal :=
  match s.moves with
  | [] => .next s
  | m :: rest => takeMove m { s with moves := rest }

/-! ### Launch -/

/-- The port a letter names (R76). -/
def portOf (p : Char) : Port :=
  if p = 'A' then .A else if p = 'B' then .B else if p = 'C' then .C else .D

/-- The reason a configuration is refused for, in R193's order; none when it is well formed (R8). -/
def configReason (r : RawConfig) : Option ConfigReason :=
  if !r.initChannelOk then some .initChannelOutOfRange
  else if !r.lineMapInjective then some .lineMapNotInjective
  else if !r.portsOk then some .portOutOfRange
  else if !r.pinsOk then some .pinOutOfRange
  else none

/-- A checked configuration's parameters as the block holds them. -/
def acceptedConfig (r : RawConfig) : Config where
  tickInit := r.tickInit
  initChannel := ⟨r.initChannel % 10, Nat.mod_lt _ (by decide)⟩
  lineMap := Vector.ofFn fun c : ChannelIx =>
    { port := portOf r.lineMap[c].1, pin := ⟨r.lineMap[c].2 % 8, Nat.mod_lt _ (by decide)⟩ }
  tickPeriod := r.tickPeriod
  servoPrescale := r.servoPrescale
  servoPreload := r.servoPreload
  servoCycle := r.servoCycle

/-- The launch (R193): a configuration that breaks R8 is refused before the first step and has no run; any other starts
in the reset state, with the unspecified values drawn. -/
def launch (r : RawConfig) (d : Draw) : Host.Outcome State Fault Refusal :=
  match configReason r with
  | some e => .refused (.configRefused e)
  | none => .next (State.resetWith (acceptedConfig r) d)

/-! ### Placing an instruction -/

/-- The state in which the event of a code is raised next and can occur: its timer is armed, interrupts are enabled, the
context is normal, and the servo's own condition holds (R198). Of the state only these gate bits are written (log 15). -/
def State.openGate (s : State) (code : EventCode) : State :=
  if code = 1 then { s with agendaRunning := true, gie := true, ctx := .normal }
  else if code = 2 then { s with servoRunning := true, gie := true, ctx := .normal, cmpOwed := false }
  else if code = 3 then { s with servoRunning := true, gie := true, ctx := .normal, cmpDone := false }
  else s

/-- `x` becomes the very next move; for an event its gate is opened. -/
def State.place (s : State) (x : Wire) : State :=
  match x with
  | .command w => { s with moves := .wire (.command w) :: s.moves }
  | .event code => { s.openGate code with moves := .wire (.event code) :: s.moves }

end Sys2Proof.Machine
end

