-- ==== Sys2Proof/Machine/Step.lean ====
section
/-!
DEFINITION. One step of the machine: one agent's next move (R9, R73, R78). And where the host places an instruction.
-/

namespace Sys2Proof.Machine

def step (s : State) : Host.Outcome State Fault Refusal := nextMove s

/-- The state in which the very next step runs the table word's instruction (log 15). -/
def State.withFetchWord (s : State) (nbits w : Nat) : State := s.place (tableWire nbits w)

end Sys2Proof.Machine
end

