-- ==== Sys2Proof/Safety.lean ====
section
/-!
DEFINITION. The terms claims use: the machine's invariant, the states a run can reach under any order of the agents'
moves, what two states have in common, runs of several steps, infinite fair runs (R210), and equality up to the values
the spec leaves unspecified (R231).
-/

namespace Sys2Proof.Machine

/-! ### Invariant -/

/-- What holds in every state a run reaches. -/
structure State.Inv (s : State) : Prop where
  /-- R8: the line map is injective. -/
  lineMap : s.cfg.WellFormed
  /-- R42: the agenda runs exactly when some slot is active. -/
  agenda : s.agendaRunning = true ↔ s.activeMask ≠ 0
  /-- R128: interrupts are enabled in callback context. -/
  gie : s.ctx ≠ .normal → s.gie = true
  /-- R35: an active slot's interval is positive. -/
  interval : ∀ i : SlotIx, s.active i = true → (s.slot i).interval ≠ 0
  /-- R121, R37: an active slot has firings left, unless it fires forever. -/
  counted : ∀ i : SlotIx, s.active i = true → (s.slot i).repeatLimit ≠ 0 →
    (s.slot i).firedCount.toNat < (s.slot i).repeatLimit.toNat
  /-- R43: an angle is in [-1, 100]. -/
  angles : ∀ c : ChannelIx, -1 ≤ (s.angleOf c).toInt ∧ (s.angleOf c).toInt ≤ 100
  /-- R171: only the current channel's line can be high, and it is while its compare match is owed. -/
  lines : ∀ c : ChannelIx, s.line[c] = (decide (c = s.currentChannel) && s.cmpOwed)
  /-- R47: a compare match is not both owed and done. -/
  order : ¬(s.cmpOwed = true ∧ s.cmpDone = true)
  /-- R162: before the multiplexer is armed no servo event has occurred. -/
  servoIdle : s.servoRunning = false → s.cmpOwed = false ∧ s.cmpDone = false
  /-- R161: during a pulse the compare register holds a committed pulse length. -/
  pulse : s.cmpOwed = true → 150 ≤ s.servoCmpV.toNat ∧ s.servoCmpV.toNat ≤ 250

/-- The states of every run: reset under any well-formed configuration and any draw (R57), any offer of moves by the
agents (R78, R199), and steps. -/
inductive Reachable : State → Prop where
  | reset (c : Config) (d : Draw) : c.WellFormed → Reachable (State.resetWith c d)
  | offered (s : State) (ms : List Move) : Reachable s → Reachable { s with moves := ms }
  | stepped (s t : State) : Reachable s → step s = .next t → Reachable t

/-! ### What two states have in common -/

/-- The configuration and the moves to come. -/
structure SameRun (s t : State) : Prop where
  cfg : t.cfg = s.cfg
  moves : t.moves = s.moves

/-- The context and the global interrupt enable. -/
structure SameContext (s t : State) : Prop where
  ctx : t.ctx = s.ctx
  gie : t.gie = s.gie

/-- All of the agenda dispatcher, the tick source and the agenda timer. -/
structure SameAgenda (s t : State) : Prop where
  tick : t.tick = s.tick
  slots : t.slots = s.slots
  activeMask : t.activeMask = s.activeMask
  agendaRunning : t.agendaRunning = s.agendaRunning
  tickPeriod : t.tickPeriod = s.tickPeriod
  tickCount : t.tickCount = s.tickCount
  tickPf : t.tickPf = s.tickPf

/-- The servo timer's registers but its countdown and its enable. -/
structure SameServoTimer (s t : State) : Prop where
  servoPrescale : t.servoPrescale = s.servoPrescale
  servoOvfPf : t.servoOvfPf = s.servoOvfPf
  servoCmpPf : t.servoCmpPf = s.servoCmpPf

/-- All of the servo multiplexer and the servo timer. -/
structure SameServo (s t : State) : Prop extends SameServoTimer s t where
  angle : t.angle = s.angle
  currentChannel : t.currentChannel = s.currentChannel
  servoRunning : t.servoRunning = s.servoRunning
  servoCmpV : t.servoCmpV = s.servoCmpV
  cmpOwed : t.cmpOwed = s.cmpOwed
  cmpDone : t.cmpDone = s.cmpDone
  line : t.line = s.line
  servoCount : t.servoCount = s.servoCount

/-- The state after a command that only answers: the response is observed and nothing else changes. -/
def State.answered (s : State) (w : RespWord) : State := { s with outputs := s.outputs ++ [.response w] }

/-! ### Eligibility at a tick, in the rule's own words -/

/-- R121 with the tick count `n`: slot `i` is active, its due time has come, and it fires forever or has firings left. -/
def DueAt (s : State) (n : Tick) (i : SlotIx) : Prop :=
  s.activeMask.getLsbD i.val = true ∧ s.slots[i].nextDue.toNat ≤ n.toNat ∧
    (s.slots[i].repeatLimit = 0 ∨ s.slots[i].firedCount.toNat < s.slots[i].repeatLimit.toNat)

/-! ### Runs -/

/-- `k` steps of the machine, stopping at the first refusal. -/
def runSteps : Nat → State → Host.Outcome State Fault Refusal
  | 0, s => .next s
  | k + 1, s =>
    match step s with
    | .next t => runSteps k t
    | .fault r => .fault r
    | .refused r => .refused r

/-- The state's next move is the event of this code. -/
def nextIsEvent (code : EventCode) (s : State) : Bool := s.moves.head? == some (.wire (.event code))

/-- The next step takes a tick. -/
def takesTick (s : State) : Bool := nextIsEvent 1 s && gateTick s

/-- The next step takes an overflow. -/
def takesOvf (s : State) : Bool := nextIsEvent 2 s && gateOvf s

/-- In how many of the first `k` steps `p` holds of the state before the step. -/
def countSteps (p : State → Bool) : Nat → State → Nat
  | 0, _ => 0
  | k + 1, s =>
    (if p s then 1 else 0) +
      match step s with
      | .next t => countSteps p k t
      | .fault _ => 0
      | .refused _ => 0

/-- The channels that the overflows taken in the first `k` steps select, in order. -/
def channelsServed : Nat → State → List ChannelIx
  | 0, _ => []
  | k + 1, s =>
    match step s with
    | .next t => (if takesOvf s then [t.currentChannel] else []) ++ channelsServed k t
    | .fault _ => []
    | .refused _ => []

/-- The output is a firing of slot `i`. -/
def isFireOf (i : SlotIx) : Output → Bool
  | .fire j _ => decide (j = i)
  | .response _ => false
  | .gpioWrite _ _ _ => false

/-- How often slot `i` fires in a stretch of the observation. -/
def firesOf (i : SlotIx) (os : List Output) : Nat := os.countP (isFireOf i)

/-- The output is a response. -/
def isResponse : Output → Bool
  | .response _ => true
  | .fire _ _ => false
  | .gpioWrite _ _ _ => false

/-- The move is a command word that the decoder reads as a REGISTER. -/
def isRegisterMove : Move → Bool
  | .wire x =>
    match decode x with
    | .ok (.register _ _ _) => true
    | _ => false
  | .setGie _ => false
  | .timer _ => false

/-- The move is a command word that the decoder reads as a CANCEL of slot `i`. -/
def isCancelMove (i : SlotIx) : Move → Bool
  | .wire x => decide (decode x = .ok (.cancel i))
  | .setGie _ => false
  | .timer _ => false

/-- The move is the command word of CB_RETURN. -/
def isReturnMove (m : Move) : Bool := decide (m = .wire (.command 0x5000000000000000))

/-! ### Infinite runs and fairness -/

/-- The gate of the event with a code (R198); no other code has one. -/
def gateOf (code : EventCode) (s : State) : Bool :=
  if code = 1 then gateTick s else if code = 2 then gateOvf s else if code = 3 then gateCmp s else false

/-- An infinite run: the state after each step, and the move each step takes. -/
def IsRun (f : Nat → State) (m : Nat → Move) : Prop :=
  ∀ n, step { f n with moves := [m n] } = .next (f (n + 1))

/-- R210: an event whose gate holds from some step onward eventually occurs. -/
def Fair (f : Nat → State) (m : Nat → Move) : Prop :=
  ∀ code k, (∀ n, k ≤ n → gateOf code (f n) = true) → ∃ n, k ≤ n ∧ m n = .wire (.event code)

/-! ### Equality up to unspecified values -/

/-- The state with every value replaced that no rule reads (R40, R231, R247): the fields of inactive slots, the compare
register, the timing-only registers and the pending flags. -/
def State.blur (s : State) : State :=
  { s with
    slots := Vector.ofFn fun i : SlotIx => if s.active i then s.slot i else ⟨0, 0, 0, 0, 0⟩
    servoCmpV := 0
    tickPeriod := 0
    tickCount := 0
    tickPf := false
    servoPrescale := 0
    servoCount := 0
    servoOvfPf := false
    servoCmpPf := false }

/-- The outcome of a step, its next state up to unspecified values. -/
def blurOutcome : Host.Outcome State Fault Refusal → Host.Outcome State Fault Refusal
  | .next s => .next s.blur
  | .fault r => .fault r
  | .refused r => .refused r

end Sys2Proof.Machine
end

