-- ==== Sys2Proof/Certificates/Slice0/Obligations.lean ====
section
/-!
DEFINITION. The statements for the provers. Each docstring names the rule of spec/ it formalises. The state's fields
`moves`, `outputs` and `cfg` are the model's own (log 1, log 4, log 5); everything else is the spec's.
-/

open Sys2Proof Sys2Proof.Machine

/-! ### Steps, decoding, encoding -/

/-- R9, R73, R78: a step performs the next move. When the move's bits decode to an instruction, the step is that
instruction's meaning on the state with the move taken off the list, and nothing more. -/
def Obligations.StepRunsTheNextInstruction : Prop :=
  ∀ (s : State) (x : Wire) (rest : List Move) (i : Instr),
    s.moves = .wire x :: rest → decode x = .ok i → step s = exec i { s with moves := rest }

/-- R58, R232: with no move to come the block waits and nothing changes. That the waiting is a step of its own is the
model's choice (log 3). -/
def Obligations.StepWaitsWithoutAMove : Prop :=
  ∀ s : State, s.moves = [] → step s = .next s

/-- R105, case by case: which words are which command with which operands; every other word is answered ILLEGAL_COMMAND
with value 0, and nothing else changes but the observation and the move taken. -/
def Obligations.DecoderFollowsTheRule : Prop :=
  (∀ (w : CmdWord) (i : Instr), decode (.command w) = .ok i ↔
    (w.extractLsb' 60 4 = 1 ∧ w.extractLsb' 40 4 = 0 ∧
      i = .register (w.extractLsb' 44 16) (w.extractLsb' 32 8) (w.extractLsb' 0 32)) ∨
    (w.extractLsb' 60 4 = 2 ∧ w.extractLsb' 3 57 = 0 ∧
      ∃ k : SlotIx, k.val = (w.extractLsb' 0 3).toNat ∧ i = .cancel k) ∨
    (w.extractLsb' 60 4 = 3 ∧ w.extractLsb' 12 48 = 0 ∧ i = .setAngle (w.extractLsb' 8 4) (w.extractLsb' 0 8)) ∨
    (w.extractLsb' 60 4 = 4 ∧ w.extractLsb' 0 60 = 0 ∧ i = .readTick) ∨
    (w.extractLsb' 60 4 = 5 ∧ w.extractLsb' 0 60 = 0 ∧ i = .cbReturn)) ∧
  (∀ (s : State) (w : CmdWord) (rest : List Move),
    s.moves = .wire (.command w) :: rest → (∀ i, decode (.command w) ≠ .ok i) →
      step s = .next (State.answered { s with moves := rest } 0x5000000000000000))

/-- R92 to R96 by their masks and matches: a word is a command exactly when it lies in a row of the opcode table. -/
def Obligations.CommandIsLegalIffInATableRow : Prop :=
  ∀ w : CmdWord, (∃ i, decode (.command w) = .ok i) ↔
    (w &&& 0xF0000F0000000000 = 0x1000000000000000 ∨ w &&& 0xFFFFFFFFFFFFFFF8 = 0x2000000000000000 ∨
      w &&& 0xFFFFFFFFFFFFF000 = 0x3000000000000000 ∨ w = 0x4000000000000000 ∨ w = 0x5000000000000000)

/-- R98: a reserved opcode answers ILLEGAL_COMMAND with value 0 and changes no state, in both contexts. -/
def Obligations.ReservedOpcodesAnswerIllegal : Prop :=
  ∀ (s : State) (w : CmdWord) (rest : List Move),
    s.moves = .wire (.command w) :: rest → (w.extractLsb' 60 4 = 0 ∨ 6 ≤ (w.extractLsb' 60 4).toNat) →
      step s = .next (State.answered { s with moves := rest } 0x5000000000000000)

/-- R99: under a legal opcode a 1 in a reserved bit answers ILLEGAL_COMMAND and changes no state, whatever the operands
and the context are: the check comes before every other. -/
def Obligations.ReservedBitsAnswerIllegal : Prop :=
  ∀ (s : State) (w : CmdWord) (rest : List Move),
    s.moves = .wire (.command w) :: rest →
    ((w.extractLsb' 60 4 = 1 ∧ w.extractLsb' 40 4 ≠ 0) ∨ (w.extractLsb' 60 4 = 2 ∧ w.extractLsb' 3 57 ≠ 0) ∨
      (w.extractLsb' 60 4 = 3 ∧ w.extractLsb' 12 48 ≠ 0) ∨ (w.extractLsb' 60 4 = 4 ∧ w.extractLsb' 0 60 ≠ 0) ∨
      (w.extractLsb' 60 4 = 5 ∧ w.extractLsb' 0 60 ≠ 0)) →
      step s = .next (State.answered { s with moves := rest } 0x5000000000000000)

/-- R92 to R97, R106: every instruction, with every operand at every value, decodes from its encoding. -/
def Obligations.DecodeInvertsEncode : Prop := ∀ i : Instr, decode (encode i) = .ok i

/-- R92 to R97, R106: a word or a code has no second instruction: what decodes is the encoding of what it decodes to. -/
def Obligations.EncodeInvertsDecode : Prop := ∀ (x : Wire) (i : Instr), decode x = .ok i → encode i = x

/-- R92 to R96, R106: words written out from the format tables. -/
def Obligations.WordsOfTheFormatTablesDecode : Prop :=
  decode (.command 0b0001_0000101000001010_0000_00000010_00000000000000000000000000000011) =
      .ok (.register 0x0A0A 2 3) ∧
    decode (.command (0b0010#4 ++ 0#57 ++ 0b101#3)) = .ok (.cancel 5) ∧
    decode (.command (0b0011#4 ++ 0#48 ++ 0b1001#4 ++ 0b11111111#8)) = .ok (.setAngle 9 (BitVec.ofInt 8 (-1))) ∧
    decode (.command (0b0100#4 ++ 0#60)) = .ok .readTick ∧
    decode (.command (0b0101#4 ++ 0#60)) = .ok .cbReturn ∧
    decode (.event 0b00000001) = .ok .tickIrq ∧
    decode (.event 0b00000010) = .ok .servoOvfIrq ∧
    decode (.event 0b00000011) = .ok .servoCmpIrq

/-- R106: codes 1, 2 and 3 name the three events and no other code names one; the model refuses such a code by name
(log 13). No command word is an event. -/
def Obligations.EventCodesNameThreeEvents : Prop :=
  (∀ (code : EventCode) (i : Instr), decode (.event code) = .ok i ↔
    (code = 0x01 ∧ i = .tickIrq) ∨ (code = 0x02 ∧ i = .servoOvfIrq) ∨ (code = 0x03 ∧ i = .servoCmpIrq)) ∧
  (∀ (s : State) (code : EventCode) (rest : List Move),
    s.moves = .wire (.event code) :: rest → code ≠ 0x01 → code ≠ 0x02 → code ≠ 0x03 →
      step s = .refused (.noSuchEvent code)) ∧
  (∀ (w : CmdWord) (i : Instr), decode (.command w) = .ok i → i ≠ .tickIrq ∧ i ≠ .servoOvfIrq ∧ i ≠ .servoCmpIrq)

/-- R108 with the encoding helpers of 95_test_vectors: a line whose operands fit assembles to the word of its format; a
line with an operand outside its field's range is refused. -/
def Obligations.AssembledWordsAreTheFormats : Prop :=
  (∀ fn ivl rpt : Nat, fn ≤ 0xFFFF → ivl ≤ 0xFFFFFFFF → rpt ≤ 255 →
    ∃ i w, (Asm.register fn ivl rpt).assemble = some i ∧ encode i = .command w ∧
      w.toNat = 0x1 * 2 ^ 60 + fn * 2 ^ 44 + rpt * 2 ^ 32 + ivl) ∧
  (∀ k : Nat, k ≤ 7 → ∃ i w, (Asm.cancel k).assemble = some i ∧ encode i = .command w ∧ w.toNat = 0x2 * 2 ^ 60 + k) ∧
  (∀ (ch : Nat) (a : Int), ch ≤ 15 → -128 ≤ a → a ≤ 127 →
    ∃ i w, (Asm.setAngle ch a).assemble = some i ∧ encode i = .command w ∧
      (w.toNat : Int) = 0x3 * 2 ^ 60 + ch * 2 ^ 8 + a % 256) ∧
  (∀ fn ivl rpt : Nat, 0xFFFF < fn ∨ 0xFFFFFFFF < ivl ∨ 255 < rpt → (Asm.register fn ivl rpt).assemble = none) ∧
  (∀ k : Nat, 7 < k → (Asm.cancel k).assemble = none) ∧
  (∀ (ch : Nat) (a : Int), 15 < ch ∨ a < -128 ∨ 127 < a → (Asm.setAngle ch a).assemble = none)

/-- R109: the three pseudo-instructions assemble as their expansions, with the same refusals. -/
def Obligations.PseudoInstructionsExpand : Prop :=
  (∀ fn ivl : Nat, (Asm.periodic fn ivl).assemble = (Asm.register fn ivl 0).assemble) ∧
  (∀ fn ivl : Nat, (Asm.oneshot fn ivl).assemble = (Asm.register fn ivl 1).assemble) ∧
  (∀ ch : Nat, (Asm.servoOff ch).assemble = (Asm.setAngle ch (-1)).assemble)

/-! ### Responses -/

/-- R100, R101: the three fields of a response word and the codes of the seven statuses. -/
def Obligations.ResponseWordLayout : Prop :=
  (∀ (st : Status) (v : BitVec 32),
    (respWord st v).extractLsb' 60 4 = statusCode st ∧ (respWord st v).extractLsb' 32 28 = 0 ∧
      (respWord st v).extractLsb' 0 32 = v) ∧
  statusCode .ok = 0 ∧ statusCode .schedulerFull = 1 ∧ statusCode .invalidChannel = 2 ∧ statusCode .invalidAngle = 3 ∧
    statusCode .invalidInterval = 4 ∧ statusCode .illegalCommand = 5 ∧ statusCode .notInCallback = 6

/-- R100, R190: every command word, legal or not, in every state, is answered in its own step by exactly one response,
whose middle bits are zero and whose status is one of 0..6. -/
def Obligations.EveryCommandAnswersOnce : Prop :=
  ∀ (s : State) (w : CmdWord) (rest : List Move), s.moves = .wire (.command w) :: rest →
    ∃ (t : State) (r : RespWord), step s = .next t ∧ t.moves = rest ∧ t.outputs = s.outputs ++ [.response r] ∧
      r.extractLsb' 32 28 = 0 ∧ (r.extractLsb' 60 4).toNat ≤ 6

/-- R191, R101: which statuses each opcode's words can be answered with, and that any status but OK comes with value 0
and leaves the state unchanged. -/
def Obligations.StatusesOfEachCommand : Prop :=
  ∀ (s t : State) (w : CmdWord) (rest : List Move) (r : RespWord),
    s.moves = .wire (.command w) :: rest → step s = .next t → t.outputs = s.outputs ++ [.response r] →
      (w.extractLsb' 60 4 = 1 → r.extractLsb' 60 4 ∈ [0, 1, 4, 5]) ∧
      (w.extractLsb' 60 4 = 2 → r.extractLsb' 60 4 ∈ [0, 5]) ∧
      (w.extractLsb' 60 4 = 3 → r.extractLsb' 60 4 ∈ [0, 2, 3, 5]) ∧
      (w.extractLsb' 60 4 = 4 → r.extractLsb' 60 4 ∈ [0, 5]) ∧
      (w.extractLsb' 60 4 = 5 → r.extractLsb' 60 4 ∈ [0, 6, 5]) ∧
      (w.extractLsb' 60 4 = 0 ∨ 6 ≤ (w.extractLsb' 60 4).toNat → r.extractLsb' 60 4 = 5) ∧
      (r.extractLsb' 60 4 ≠ 0 → r.extractLsb' 0 32 = 0 ∧ t = State.answered { s with moves := rest } r)

/-! ### REGISTER -/

/-- R129: REGISTER with a positive interval and a free slot completes: it takes the least free slot, writes its five
fields, activates it, arms an idle agenda (R123: `gie` only in normal context), answers the slot index, and changes
nothing else. -/
def Obligations.RegisterTakesTheLowestFreeSlot : Prop :=
  ∀ (s : State) (fn : Handle) (rpt : Count) (ivl : Tick) (i : SlotIx),
    ivl ≠ 0 → s.activeMask.getLsbD i.val = false → (∀ j : SlotIx, j < i → s.activeMask.getLsbD j.val = true) →
    ∃ t, exec (.register fn rpt ivl) s = .next t ∧
      t.slots[i].fn = fn ∧ t.slots[i].interval = ivl ∧ t.slots[i].repeatLimit = rpt ∧ t.slots[i].firedCount = 0 ∧
      t.slots[i].nextDue.toNat = (s.tick.toNat + ivl.toNat) % 2 ^ 32 ∧
      (∀ j : SlotIx, j ≠ i → t.slots[j] = s.slots[j]) ∧
      (∀ j : SlotIx, t.activeMask.getLsbD j.val = (decide (j = i) || s.activeMask.getLsbD j.val)) ∧
      t.agendaRunning = true ∧
      t.gie = (if s.agendaRunning = false ∧ s.ctx = .normal then true else s.gie) ∧
      t.tickPeriod = (if s.agendaRunning = false then s.cfg.tickPeriod else s.tickPeriod) ∧
      t.tickPf = (if s.agendaRunning = false then false else s.tickPf) ∧
      t.outputs = s.outputs ++ [.response (BitVec.ofNat 64 i.val)] ∧
      t.tick = s.tick ∧ t.tickCount = s.tickCount ∧ t.ctx = s.ctx ∧ SameServo s t ∧ SameRun s t

/-- R129, R101: interval 0 answers INVALID_INTERVAL, also when the table is full; a positive interval with all slots
active answers SCHEDULER_FULL; neither changes anything. -/
def Obligations.RegisterRejections : Prop :=
  ∀ (s : State) (fn : Handle) (rpt : Count),
    exec (.register fn rpt 0) s = .next (s.answered 0x4000000000000000) ∧
    (∀ ivl : Tick, ivl ≠ 0 → s.activeMask = 0xFF →
      exec (.register fn rpt ivl) s = .next (s.answered 0x1000000000000000))

/-- R122: the least index whose bit is 0, defined exactly when the mask is not 0xFF. -/
def Obligations.LowestFreeIsTheLeast : Prop :=
  ∀ m : BitVec 8,
    (∀ i : SlotIx, lowestFree m = some i ↔
      m.getLsbD i.val = false ∧ ∀ j : SlotIx, m.getLsbD j.val = false → i ≤ j) ∧
    (lowestFree m = none ↔ m = 0xFF)

/-- R140: with all eight slots active a REGISTER answers SCHEDULER_FULL and changes nothing; after CANCEL of any slot
it succeeds and takes that slot, the only free one. -/
def Obligations.NinthRegistrationFails : Prop :=
  ∀ (s : State) (fn : Handle) (rpt : Count) (ivl : Tick) (k : SlotIx), s.activeMask = 0xFF → ivl ≠ 0 →
    exec (.register fn rpt ivl) s = .next (s.answered 0x1000000000000000) ∧
    ∃ t u, exec (.cancel k) s = .next t ∧ lowestFree t.activeMask = some k ∧
      exec (.register fn rpt ivl) t = .next u ∧ u.outputs = t.outputs ++ [.response (BitVec.ofNat 64 k.val)] ∧
      u.slots[k].fn = fn ∧ u.activeMask = 0xFF

/-- R126, R245: a registration whose due time wraps, made before the counter's last value, is due at the very next
tick. -/
def Obligations.WrappedDueTimeIsDueAtOnce : Prop :=
  ∀ (s t : State) (fn : Handle) (rpt : Count) (ivl : Tick) (i : SlotIx),
    ivl ≠ 0 → s.activeMask.getLsbD i.val = false → (∀ j : SlotIx, j < i → s.activeMask.getLsbD j.val = true) →
    2 ^ 32 ≤ s.tick.toNat + ivl.toNat → s.tick ≠ 0xFFFFFFFF → exec (.register fn rpt ivl) s = .next t →
      t.slots[i].nextDue.toNat = s.tick.toNat + ivl.toNat - 2 ^ 32 ∧ DueAt t (t.tick + 1) i

/-! ### CANCEL, READ_TICK, CB_RETURN -/

/-- R131: CANCEL completes in every state: the slot's bit is 0 afterwards and no other bit changes; the agenda is
disarmed when an active slot's cancellation leaves none active (R124: `gie` and `tick` are not written); OK is
answered; nothing else changes. -/
def Obligations.CancelFreesTheSlot : Prop :=
  ∀ (s : State) (k : SlotIx), ∃ t, exec (.cancel k) s = .next t ∧
    (∀ j : SlotIx, t.activeMask.getLsbD j.val = (s.activeMask.getLsbD j.val && !decide (j = k))) ∧
    t.agendaRunning =
      (if s.activeMask.getLsbD k.val = true ∧ t.activeMask = 0 then false else s.agendaRunning) ∧
    t.outputs = s.outputs ++ [.response 0] ∧
    t.slots = s.slots ∧ t.tick = s.tick ∧ t.tickPeriod = s.tickPeriod ∧ t.tickCount = s.tickCount ∧ t.tickPf = s.tickPf ∧
    SameContext s t ∧ SameServo s t ∧ SameRun s t

/-- R131, R75: a second CANCEL of the same slot answers OK and changes nothing. -/
def Obligations.CancelTwiceIsCancelOnce : Prop :=
  ∀ (s t : State) (k : SlotIx), exec (.cancel k) s = .next t → exec (.cancel k) t = .next (t.answered 0)

/-- R132, R102: READ_TICK completes in every state, answers the whole counter with status OK, and changes nothing. -/
def Obligations.ReadTickAnswersTheCounter : Prop :=
  ∀ s : State, ∃ r : RespWord, exec .readTick s = .next (s.answered r) ∧ r.toNat = s.tick.toNat

/-- R136: in callback context CB_RETURN completes: the context becomes normal, OK is answered, nothing else changes. In
normal context it answers NOT_IN_CALLBACK and changes nothing. -/
def Obligations.CbReturnLeavesTheCallback : Prop :=
  ∀ s : State,
    (∀ k, s.ctx = .callback k →
      exec .cbReturn s = .next { s with ctx := .normal, outputs := s.outputs ++ [.response 0] }) ∧
    (s.ctx = .normal → exec .cbReturn s = .next (s.answered 0x6000000000000000))

/-! ### TICK_IRQ -/

/-- R133: a tick at which no slot is due completes: the counter and the hardware counter are written, nothing else. -/
def Obligations.TickWithNoDueSlotOnlyCounts : Prop :=
  ∀ s : State, s.agendaRunning = true → s.gie = true → s.ctx = .normal →
    (∀ i : SlotIx, ¬DueAt s (BitVec.ofNat 32 (s.tick.toNat + 1)) i) →
    exec .tickIrq s = .next { s with tick := BitVec.ofNat 32 (s.tick.toNat + 1), tickCount := 0 }

/-- R133, R134, R135, R127: a tick at which slot `i` is the lowest due one completes: it counts, presents the firing of
`i`, enters its callback context, and updates slot `i` by the fire-count rule; no other slot and nothing of the servo
multiplexer changes. -/
def Obligations.TickFiresTheLowestDueSlot : Prop :=
  ∀ (s : State) (i : SlotIx), s.agendaRunning = true → s.gie = true → s.ctx = .normal →
    DueAt s (BitVec.ofNat 32 (s.tick.toNat + 1)) i →
    (∀ j : SlotIx, j < i → ¬DueAt s (BitVec.ofNat 32 (s.tick.toNat + 1)) j) →
    ∃ t, exec .tickIrq s = .next t ∧
      t.tick.toNat = (s.tick.toNat + 1) % 2 ^ 32 ∧ t.tickCount = 0 ∧
      t.outputs = s.outputs ++ [.fire i s.slots[i].fn] ∧ t.ctx = .callback i ∧
      (∀ j : SlotIx, j ≠ i → t.slots[j] = s.slots[j]) ∧
      t.slots[i].fn = s.slots[i].fn ∧ t.slots[i].interval = s.slots[i].interval ∧
      t.slots[i].repeatLimit = s.slots[i].repeatLimit ∧
      (s.slots[i].repeatLimit = 0 →
        t.slots[i].firedCount = s.slots[i].firedCount ∧
        t.slots[i].nextDue.toNat = (t.tick.toNat + s.slots[i].interval.toNat) % 2 ^ 32 ∧
        t.activeMask = s.activeMask ∧ t.agendaRunning = true) ∧
      (s.slots[i].repeatLimit ≠ 0 → s.slots[i].firedCount.toNat + 1 < s.slots[i].repeatLimit.toNat →
        t.slots[i].firedCount.toNat = s.slots[i].firedCount.toNat + 1 ∧
        t.slots[i].nextDue.toNat = (t.tick.toNat + s.slots[i].interval.toNat) % 2 ^ 32 ∧
        t.activeMask = s.activeMask ∧ t.agendaRunning = true) ∧
      (s.slots[i].repeatLimit ≠ 0 → s.slots[i].firedCount.toNat + 1 = s.slots[i].repeatLimit.toNat →
        t.slots[i].firedCount = s.slots[i].repeatLimit ∧ t.slots[i].nextDue = s.slots[i].nextDue ∧
        (∀ j : SlotIx, t.activeMask.getLsbD j.val = (s.activeMask.getLsbD j.val && !decide (j = i))) ∧
        (t.agendaRunning = true ↔ t.activeMask ≠ 0)) ∧
      t.gie = s.gie ∧ t.tickPeriod = s.tickPeriod ∧ t.tickPf = s.tickPf ∧ SameServo s t ∧ SameRun s t

/-- R139: when a tick fires slot `i`, every other slot that was due at that tick has a higher index and is still due
after it. -/
def Obligations.DelayedSlotsStayDue : Prop :=
  ∀ (s t : State) (i j : SlotIx) (fn : Handle), exec .tickIrq s = .next t → t.outputs = s.outputs ++ [.fire i fn] →
    j ≠ i → DueAt s t.tick j → i < j ∧ DueAt t t.tick j ∧ t.slots[j] = s.slots[j]

/-! ### SET_ANGLE -/

/-- R165, R162: SET_ANGLE of a channel 0..9 to an angle in [-1, 100] completes: the angle is written, an idle
multiplexer is armed (`gie` only in normal context), OK is answered; no line, no other angle, not the current channel
and not the compare register change. -/
def Obligations.SetAngleCommandsAPosition : Prop :=
  ∀ (s : State) (c : BitVec 4) (a : BitVec 8) (ch : ChannelIx), ch.val = c.toNat → -1 ≤ a.toInt → a.toInt ≤ 100 →
    ∃ t, exec (.setAngle c a) s = .next t ∧
      t.angle[ch] = a ∧ (∀ d : ChannelIx, d ≠ ch → t.angle[d] = s.angle[d]) ∧
      t.servoRunning = true ∧
      t.gie = (if s.servoRunning = false ∧ s.ctx = .normal then true else s.gie) ∧
      t.servoPrescale = (if s.servoRunning = false then s.cfg.servoPrescale else s.servoPrescale) ∧
      t.servoCount = (if s.servoRunning = false then s.cfg.servoPreload else s.servoCount) ∧
      t.servoOvfPf = (if s.servoRunning = false then false else s.servoOvfPf) ∧
      t.servoCmpPf = (if s.servoRunning = false then false else s.servoCmpPf) ∧
      t.outputs = s.outputs ++ [.response 0] ∧
      t.currentChannel = s.currentChannel ∧ t.servoCmpV = s.servoCmpV ∧ t.cmpOwed = s.cmpOwed ∧
      t.cmpDone = s.cmpDone ∧ t.line = s.line ∧ t.ctx = s.ctx ∧ SameAgenda s t ∧ SameRun s t

/-- R164, R99: the validation order of a SET_ANGLE word: reserved bits, then the channel, then the angle; a rejected
one changes no state and arms nothing. -/
def Obligations.SetAngleValidationOrder : Prop :=
  ∀ (s : State) (w : CmdWord) (rest : List Move),
    s.moves = .wire (.command w) :: rest → w.extractLsb' 60 4 = 3 →
    (w.extractLsb' 12 48 ≠ 0 → step s = .next (State.answered { s with moves := rest } 0x5000000000000000)) ∧
    (w.extractLsb' 12 48 = 0 → 10 ≤ (w.extractLsb' 8 4).toNat →
      step s = .next (State.answered { s with moves := rest } 0x2000000000000000)) ∧
    (w.extractLsb' 12 48 = 0 → (w.extractLsb' 8 4).toNat < 10 →
      ((w.extractLsb' 0 8).toInt < -1 ∨ 100 < (w.extractLsb' 0 8).toInt) →
      step s = .next (State.answered { s with moves := rest } 0x3000000000000000))

/-! ### Servo events -/

/-- R167, R161: an overflow whose next channel holds an angle in 0..100 completes: the channel becomes current, angle +
150 is loaded, its line rises and is written to its pin, its compare match is owed; no other line changes. -/
def Obligations.OverflowStartsThePulse : Prop :=
  ∀ (s : State) (c : ChannelIx),
    s.servoRunning = true → s.gie = true → s.ctx = .normal → s.cmpOwed = false →
    c.val = (s.currentChannel.val + 1) % 10 → 0 ≤ s.angle[c].toInt → s.angle[c].toInt ≤ 100 →
    ∃ t, exec .servoOvfIrq s = .next t ∧
      t.currentChannel = c ∧ t.cmpDone = false ∧ t.cmpOwed = true ∧
      (t.servoCmpV.toNat : Int) = s.angle[c].toInt + 150 ∧
      t.line[c] = true ∧ (∀ d : ChannelIx, d ≠ c → t.line[d] = s.line[d]) ∧
      t.outputs = s.outputs ++ [.gpioWrite s.cfg.lineMap[c].port s.cfg.lineMap[c].pin true] ∧
      t.servoCount = s.cfg.servoPreload ∧ t.angle = s.angle ∧ t.servoRunning = true ∧
      SameServoTimer s t ∧ SameContext s t ∧ SameAgenda s t ∧ SameRun s t

/-- R167, R173: an overflow whose next channel is disabled completes: the channel becomes current and a new cycle
begins; no line, no compare register and no pin is written. -/
def Obligations.OverflowOfADisabledChannel : Prop :=
  ∀ (s : State) (c : ChannelIx),
    s.servoRunning = true → s.gie = true → s.ctx = .normal → s.cmpOwed = false →
    c.val = (s.currentChannel.val + 1) % 10 → s.angle[c].toInt = -1 →
    exec .servoOvfIrq s =
      .next { s with currentChannel := c, cmpDone := false, servoCount := s.cfg.servoPreload }

/-- R169: a compare match completes, whatever the current channel's angle: its line falls, 0 is written to its pin, the
match is done and none is owed; nothing else changes. -/
def Obligations.CompareMatchEndsThePulse : Prop :=
  ∀ (s : State) (c : ChannelIx),
    s.servoRunning = true → s.gie = true → s.ctx = .normal → s.cmpDone = false → c = s.currentChannel →
    ∃ t, exec .servoCmpIrq s = .next t ∧
      t.line[c] = false ∧ (∀ d : ChannelIx, d ≠ c → t.line[d] = s.line[d]) ∧
      t.cmpOwed = false ∧ t.cmpDone = true ∧
      t.outputs = s.outputs ++ [.gpioWrite s.cfg.lineMap[c].port s.cfg.lineMap[c].pin false] ∧
      t.currentChannel = c ∧ t.angle = s.angle ∧ t.servoRunning = true ∧ t.servoCmpV = s.servoCmpV ∧
      t.servoCount = s.servoCount ∧ SameServoTimer s t ∧ SameContext s t ∧ SameAgenda s t ∧ SameRun s t

/-! ### The event gate -/

/-- R198, R133: TICK_IRQ changes the state exactly when its gate holds; otherwise it does not occur (that an event
offered under a closed gate leaves the state as it is, is the model's choice, log 2). -/
def Obligations.TickOccursExactlyWhenGated : Prop :=
  ∀ s : State, exec .tickIrq s ≠ .next s ↔ (s.agendaRunning = true ∧ s.gie = true ∧ s.ctx = .normal)

/-- R168: SERVO_OVF_IRQ changes the state exactly when the multiplexer runs, interrupts are enabled, the context is
normal and no compare match is owed (under a closed gate nothing happens: log 2). -/
def Obligations.OverflowOccursExactlyWhenGated : Prop :=
  ∀ s : State, exec .servoOvfIrq s ≠ .next s ↔
    (s.servoRunning = true ∧ s.gie = true ∧ s.ctx = .normal ∧ s.cmpOwed = false)

/-- R170: SERVO_CMP_IRQ changes the state exactly when the multiplexer runs, interrupts are enabled, the context is
normal and no compare match has been taken in the cycle; so a second one in the same cycle changes nothing, and while
one is owed no overflow does (under a closed gate nothing happens: log 2). -/
def Obligations.CompareOccursExactlyWhenGated : Prop :=
  (∀ s : State, exec .servoCmpIrq s ≠ .next s ↔
    (s.servoRunning = true ∧ s.gie = true ∧ s.ctx = .normal ∧ s.cmpDone = false)) ∧
  (∀ s t : State, exec .servoCmpIrq s = .next t → t ≠ s → exec .servoCmpIrq t = .next t) ∧
  (∀ s : State, s.cmpOwed = true → exec .servoOvfIrq s = .next s)

/-! ### Reset and launch -/

/-- R57: the values after reset under any configuration and any draw; State.reset is one of these states. -/
def Obligations.ResetValues : Prop :=
  (∀ (c : Config) (d : Draw),
    (State.resetWith c d).tick = c.tickInit ∧ (State.resetWith c d).activeMask = 0x00 ∧
    (State.resetWith c d).agendaRunning = false ∧
    (∀ ch : ChannelIx, (State.resetWith c d).angle[ch].toInt = -1 ∧ (State.resetWith c d).line[ch] = false) ∧
    (State.resetWith c d).currentChannel = c.initChannel ∧ (State.resetWith c d).servoRunning = false ∧
    (State.resetWith c d).cmpOwed = false ∧ (State.resetWith c d).cmpDone = false ∧
    (State.resetWith c d).ctx = .normal ∧ (State.resetWith c d).gie = false) ∧
  ∃ (c : Config) (d : Draw), State.reset = State.resetWith c d ∧ c.WellFormed

/-- R233: after reset no event changes the state (log 2), READ_TICK answers TICK_INIT, every CANCEL answers OK and changes nothing,
CB_RETURN answers NOT_IN_CALLBACK, and every line is low. -/
def Obligations.NothingHappensBeforeTheFirstArm : Prop :=
  ∀ (c : Config) (d : Draw) (s : State), s = State.resetWith c d →
    exec .tickIrq s = .next s ∧ exec .servoOvfIrq s = .next s ∧ exec .servoCmpIrq s = .next s ∧
    (∃ r : RespWord, exec .readTick s = .next (s.answered r) ∧ r.toNat = c.tickInit.toNat) ∧
    (∀ k : SlotIx, exec (.cancel k) s = .next (s.answered 0)) ∧
    exec .cbReturn s = .next (s.answered 0x6000000000000000) ∧
    (∀ ch : ChannelIx, s.line[ch] = false)

/-- R8, R193: a launch is refused exactly when INIT_CHANNEL is outside 0..9, two channels share a line, a port is outside
A..D or a pin outside 0..7; any other starts in the reset state with the parameters it was given. -/
def Obligations.LaunchRefusesExactlyIllFormedConfigurations : Prop :=
  ∀ (r : RawConfig) (d : Draw),
    ((r.initChannel < 10 ∧ (∀ c e : ChannelIx, r.lineMap[c] = r.lineMap[e] → c = e) ∧
        ∀ c : ChannelIx, r.lineMap[c].1 ∈ ['A', 'B', 'C', 'D'] ∧ r.lineMap[c].2 < 8) →
      ∃ k : Config, launch r d = .next (State.resetWith k d) ∧ k.WellFormed ∧
        k.tickInit = r.tickInit ∧ k.initChannel.val = r.initChannel ∧
        (∀ c : ChannelIx, k.lineMap[c].pin.val = r.lineMap[c].2 ∧
          (r.lineMap[c].1 = 'A' ↔ k.lineMap[c].port = .A) ∧ (r.lineMap[c].1 = 'B' ↔ k.lineMap[c].port = .B) ∧
          (r.lineMap[c].1 = 'C' ↔ k.lineMap[c].port = .C) ∧ (r.lineMap[c].1 = 'D' ↔ k.lineMap[c].port = .D))) ∧
    (¬(r.initChannel < 10 ∧ (∀ c e : ChannelIx, r.lineMap[c] = r.lineMap[e] → c = e) ∧
        ∀ c : ChannelIx, r.lineMap[c].1 ∈ ['A', 'B', 'C', 'D'] ∧ r.lineMap[c].2 < 8) →
      ∃ e, launch r d = .refused (.configRefused e))

/-! ### Invariants -/

/-- R57: the invariant holds at reset, under every well-formed configuration and every draw, State.reset among them. -/
def Obligations.TheInvariantHoldsAtReset : Prop :=
  State.reset.Inv ∧ ∀ (c : Config) (d : Draw), c.WellFormed → (State.resetWith c d).Inv

/-- R42, R43, R47, R121, R128, R161, R162, R171: every step of every agent keeps the invariant. -/
def Obligations.StepKeepsTheInvariant : Prop :=
  ∀ s t : State, s.Inv → step s = .next t → t.Inv

/-- R42: in every state reachable from reset the agenda runs exactly when some slot is active. -/
def Obligations.AgendaRunsExactlyWhileASlotIsActive : Prop :=
  ∀ s : State, Reachable s → (s.agendaRunning = true ↔ s.activeMask ≠ 0x00)

/-- R171: in every reachable state every line but the current channel's is low and that one's level is `cmpOwed`; so at
most one line is high, and, the map being injective, at most one mapped pin. -/
def Obligations.AtMostOneLineIsHigh : Prop :=
  ∀ s : State, Reachable s →
    (∀ c : ChannelIx, c ≠ s.currentChannel → s.line[c] = false) ∧ s.line[s.currentChannel] = s.cmpOwed ∧
    (∀ c d : ChannelIx, s.line[c] = true → s.line[d] = true → c = d) ∧
    (∀ c d : ChannelIx, s.cfg.lineMap[c] = s.cfg.lineMap[d] → c = d)

/-- R128: in callback context `gie` is 1 in every reachable state, and no command writes 0 to it in any state. -/
def Obligations.InterruptsAreEnabledInCallbacks : Prop :=
  (∀ (s : State) (k : SlotIx), Reachable s → s.ctx = .callback k → s.gie = true) ∧
  (∀ (i : Instr) (s t : State), exec i s = .next t → s.gie = true → t.gie = true)

/-! ### Whole-machine rules -/

/-- R32: no step but one that takes a tick changes the tick counter, and that one adds 1 modulo 2^32. -/
def Obligations.OnlyTickIrqCounts : Prop :=
  ∀ s t : State, step s = .next t →
    (takesTick s = true → t.tick.toNat = (s.tick.toNat + 1) % 2 ^ 32) ∧ (takesTick s = false → t.tick = s.tick)

/-- R45: once armed, the multiplexer stays armed through every step. -/
def Obligations.ServoTimerIsNeverDisarmed : Prop :=
  ∀ s t : State, step s = .next t → s.servoRunning = true → t.servoRunning = true

/-- R246: no step alters the handle, the interval or the repeat limit of a slot that is active. -/
def Obligations.ActiveRegistrationIsFixed : Prop :=
  ∀ (s t : State) (i : SlotIx), step s = .next t → s.activeMask.getLsbD i.val = true →
    t.slots[i].fn = s.slots[i].fn ∧ t.slots[i].interval = s.slots[i].interval ∧
      t.slots[i].repeatLimit = s.slots[i].repeatLimit

/-- R205, R49: the context changes only from normal to a callback, by a tick that presents that slot's firing, and
from a callback to normal, by CB_RETURN. -/
def Obligations.ContextChangesOnlyByFireAndReturn : Prop :=
  ∀ s t : State, step s = .next t → t.ctx ≠ s.ctx →
    (∃ i fn, takesTick s = true ∧ s.ctx = .normal ∧ t.ctx = .callback i ∧ t.outputs = s.outputs ++ [.fire i fn]) ∨
    (∃ k rest, s.ctx = .callback k ∧ t.ctx = .normal ∧ s.moves = .wire (.command 0x5000000000000000) :: rest)

/-- R50: `gie` changes only in normal context, by the host's SET_GIE or, to 1, by a command that arms a timer. -/
def Obligations.GieChangesOnlyByHostOrArming : Prop :=
  ∀ s t : State, step s = .next t → t.gie ≠ s.gie → s.ctx = .normal ∧
    ((∃ b rest, s.moves = .setGie b :: rest ∧ t.gie = b) ∨
      (t.gie = true ∧ ((s.agendaRunning = false ∧ t.agendaRunning = true) ∨
        (s.servoRunning = false ∧ t.servoRunning = true))))

/-- R10, R139: a step adds at most one output after those observed before, and a firing only when it takes a tick; so
at most one slot fires in a tick. -/
def Obligations.EachStepHasAtMostOneOutput : Prop :=
  ∀ s t : State, step s = .next t →
    t.outputs = s.outputs ∨
    ∃ o, t.outputs = s.outputs ++ [o] ∧ ∀ i fn, o = .fire i fn → takesTick s = true ∧ t.ctx = .callback i

/-- R206: SET_GIE writes `gie` in normal context, with no response; in callback context the host has no such move, and
the model refuses it by name (log 11). -/
def Obligations.SetGieActsInNormalContextOnly : Prop :=
  ∀ (s : State) (b : Bool) (rest : List Move), s.moves = .setGie b :: rest →
    (s.ctx = .normal → step s = .next { s with moves := rest, gie := b }) ∧
    (∀ k, s.ctx = .callback k → step s = .refused .setGieInCallback)

/-- R243: inside the host's bracket, in normal context, a REGISTER that arms the agenda or a SET_ANGLE that arms the
multiplexer sets `gie` to 1, and that timer's events can occur at the next step; a REGISTER that does not arm leaves the
bracket in force. -/
def Obligations.ArmingEndsTheHostsBracket : Prop :=
  ∀ s : State, s.ctx = .normal → s.gie = false →
    (∀ (fn : Handle) (rpt : Count) (ivl : Tick), ivl ≠ 0 → s.activeMask ≠ 0xFF →
      ∃ t, exec (.register fn rpt ivl) s = .next t ∧
        (s.agendaRunning = false → t.gie = true ∧ gateTick t = true) ∧
        (s.agendaRunning = true → t.gie = false ∧ gateTick t = false)) ∧
    (∀ (c : BitVec 4) (a : BitVec 8), c.toNat < 10 → -1 ≤ a.toInt → a.toInt ≤ 100 →
      ∃ t, exec (.setAngle c a) s = .next t ∧
        (s.servoRunning = false → t.gie = true ∧ (s.cmpOwed = false → gateOvf t = true)) ∧
        (s.servoRunning = true → t.gie = false ∧ gateOvf t = false))

/-- R241, R201: in callback context no instruction writes `gie`, whatever it arms, and none but CB_RETURN opens the gate
of any event. -/
def Obligations.NoInstructionWritesGieInACallback : Prop :=
  ∀ (i : Instr) (s t : State) (k : SlotIx), s.ctx = .callback k → exec i s = .next t →
    t.gie = s.gie ∧
    (i ≠ .cbReturn → t.ctx = .callback k ∧ gateTick t = false ∧ gateOvf t = false ∧ gateCmp t = false)

/-! ### Runs -/

/-- R211, R252: while the host does not return from a callback, whatever else it and the timers do, no tick is counted,
no slot fires, no line and no pin changes: only responses are observed. -/
def Obligations.CallbackWithoutReturnBlocksEveryEvent : Prop :=
  ∀ (n : Nat) (s t : State) (k : SlotIx), s.ctx = .callback k → (∀ m ∈ s.moves, isReturnMove m = false) →
    runSteps n s = .next t →
      t.ctx = .callback k ∧ t.tick = s.tick ∧ t.line = s.line ∧ t.currentChannel = s.currentChannel ∧
      ∃ new, t.outputs = s.outputs ++ new ∧ ∀ o ∈ new, isResponse o = true

/-- R172: in every run the overflows taken select the channels in increasing order with wraparound, starting after the
current one; so ten of them select each channel exactly once. -/
def Obligations.OverflowsServeChannelsRoundRobin : Prop :=
  ∀ (n : Nat) (s t : State), runSteps n s = .next t →
    (∀ (j : Nat) (c : ChannelIx), (channelsServed n s)[j]? = some c → c.val = (s.currentChannel.val + 1 + j) % 10) ∧
    ((channelsServed n s).length = 10 → ∀ c : ChannelIx, (channelsServed n s).count c = 1)

/-- R54, R197: in every run the tick counter counts the handlers run, not the events offered while blocked. -/
def Obligations.TickCountsHandlerRuns : Prop :=
  ∀ (n : Nat) (s t : State), runSteps n s = .next t →
    t.tick.toNat = (s.tick.toNat + countSteps takesTick n s) % 2 ^ 32

/-- R137: as long as a slot with a finite repeat limit stays registered and is not cancelled, its fired count is what it
was plus its firings in the run; when it becomes inactive it has fired exactly up to its limit. For a fresh
registration, whose count is 0, that is exactly `repeatLimit` firings. -/
def Obligations.LimitedSlotFiresExactlyItsLimit : Prop :=
  ∀ (n : Nat) (s t : State) (i : SlotIx), s.Inv → s.slots[i].repeatLimit ≠ 0 →
    (∀ m ∈ s.moves, isCancelMove i m = false) →
    (∀ j u, j < n → runSteps j s = .next u → u.active i = true) → 0 < n → runSteps n s = .next t →
      ∃ new, t.outputs = s.outputs ++ new ∧
        (t.active i = true →
          s.slots[i].firedCount.toNat + firesOf i new = t.slots[i].firedCount.toNat ∧
          s.slots[i].firedCount.toNat + firesOf i new < s.slots[i].repeatLimit.toNat) ∧
        (t.active i = false → s.slots[i].firedCount.toNat + firesOf i new = s.slots[i].repeatLimit.toNat)

/-- R130, R138: a slot that fires forever and is the only active one fires at the tick that reaches its due time and at
none before; its next due time is one interval after that tick. With `d` the ticks still to come, that is the `d`-th. -/
def Obligations.PeriodicSlotFiresAtItsDueTick : Prop :=
  ∀ (s : State) (i : SlotIx) (d : Nat) (rest : List Move),
    s.agendaRunning = true → s.gie = true → s.ctx = .normal →
    (∀ j : SlotIx, s.activeMask.getLsbD j.val = decide (j = i)) → s.slots[i].repeatLimit = 0 →
    0 < d → s.slots[i].nextDue.toNat = s.tick.toNat + d →
    s.moves = List.replicate d (.wire (.event 0x01)) ++ rest →
      (∀ j, j < d → ∃ u, runSteps j s = .next u ∧ u.tick.toNat = s.tick.toNat + j ∧ u.outputs = s.outputs) ∧
      ∃ t, runSteps d s = .next t ∧ t.tick.toNat = s.tick.toNat + d ∧
        t.outputs = s.outputs ++ [.fire i s.slots[i].fn] ∧ t.ctx = .callback i ∧ t.activeMask = s.activeMask ∧
        t.slots[i].nextDue.toNat = (t.tick.toNat + s.slots[i].interval.toNat) % 2 ^ 32 ∧ t.moves = rest

/-- R83, R237: a slot that is not active never fires, in any run, until some REGISTER. -/
def Obligations.CancelledSlotNeverFires : Prop :=
  ∀ (n : Nat) (s t : State) (i : SlotIx), s.activeMask.getLsbD i.val = false →
    (∀ m ∈ s.moves, isRegisterMove m = false) → runSteps n s = .next t →
      t.activeMask.getLsbD i.val = false ∧ ∃ new, t.outputs = s.outputs ++ new ∧ firesOf i new = 0

/-- R210, R47: in every fair infinite run in which interrupts stay enabled and no callback runs, a pulse in progress
ends. -/
def Obligations.PulsesEndInFairRuns : Prop :=
  ∀ (f : Nat → State) (m : Nat → Move) (k : Nat), IsRun f m → Fair f m → (f k).Inv → (f k).cmpOwed = true →
    (∀ n, k ≤ n → (f n).gie = true ∧ (f n).ctx = .normal) →
      ∃ n, k ≤ n ∧ (f n).cmpOwed = false ∧ (f n).line[(f n).currentChannel] = false

/-- R231, R247, R40: nothing a run shows rests on a value the spec leaves unspecified: two states that agree but for the
fields of inactive slots, the compare register, the timing-only registers and the pending flags step to the same outcome
up to those values, with the same observation. -/
def Obligations.UnspecifiedValuesAreNeverObserved : Prop :=
  ∀ s u : State, s.blur = u.blur → blurOutcome (step s) = blurOutcome (step u)
end

