-- ==== Sys2Proof/Laws/State.lean ====
section
/-!
SUPPORT. One lemma for each field under each update of the state: what the update writes there, or that it leaves the
field alone. Proofs rewrite with these and do not unfold a record update.
-/

namespace Sys2Proof.Machine

/-! ### emit -/

@[simp] theorem State.emit_cfg (s : State) (o : Output) : (s.emit o).cfg = s.cfg := rfl
@[simp] theorem State.emit_tick (s : State) (o : Output) : (s.emit o).tick = s.tick := rfl
@[simp] theorem State.emit_slots (s : State) (o : Output) : (s.emit o).slots = s.slots := rfl
@[simp] theorem State.emit_activeMask (s : State) (o : Output) : (s.emit o).activeMask = s.activeMask := rfl
@[simp] theorem State.emit_agendaRunning (s : State) (o : Output) : (s.emit o).agendaRunning = s.agendaRunning := rfl
@[simp] theorem State.emit_angle (s : State) (o : Output) : (s.emit o).angle = s.angle := rfl
@[simp] theorem State.emit_currentChannel (s : State) (o : Output) : (s.emit o).currentChannel = s.currentChannel := rfl
@[simp] theorem State.emit_servoRunning (s : State) (o : Output) : (s.emit o).servoRunning = s.servoRunning := rfl
@[simp] theorem State.emit_servoCmpV (s : State) (o : Output) : (s.emit o).servoCmpV = s.servoCmpV := rfl
@[simp] theorem State.emit_cmpOwed (s : State) (o : Output) : (s.emit o).cmpOwed = s.cmpOwed := rfl
@[simp] theorem State.emit_cmpDone (s : State) (o : Output) : (s.emit o).cmpDone = s.cmpDone := rfl
@[simp] theorem State.emit_line (s : State) (o : Output) : (s.emit o).line = s.line := rfl
@[simp] theorem State.emit_ctx (s : State) (o : Output) : (s.emit o).ctx = s.ctx := rfl
@[simp] theorem State.emit_gie (s : State) (o : Output) : (s.emit o).gie = s.gie := rfl
@[simp] theorem State.emit_tickPeriod (s : State) (o : Output) : (s.emit o).tickPeriod = s.tickPeriod := rfl
@[simp] theorem State.emit_tickCount (s : State) (o : Output) : (s.emit o).tickCount = s.tickCount := rfl
@[simp] theorem State.emit_tickPf (s : State) (o : Output) : (s.emit o).tickPf = s.tickPf := rfl
@[simp] theorem State.emit_servoPrescale (s : State) (o : Output) : (s.emit o).servoPrescale = s.servoPrescale := rfl
@[simp] theorem State.emit_servoCount (s : State) (o : Output) : (s.emit o).servoCount = s.servoCount := rfl
@[simp] theorem State.emit_servoOvfPf (s : State) (o : Output) : (s.emit o).servoOvfPf = s.servoOvfPf := rfl
@[simp] theorem State.emit_servoCmpPf (s : State) (o : Output) : (s.emit o).servoCmpPf = s.servoCmpPf := rfl
@[simp] theorem State.emit_moves (s : State) (o : Output) : (s.emit o).moves = s.moves := rfl
@[simp] theorem State.emit_outputs (s : State) (o : Output) : (s.emit o).outputs = s.outputs ++ [o] := rfl

/-! ### respond -/

@[simp] theorem State.respond_cfg (s : State) (st : Status) (v : BitVec 32) : (s.respond st v).cfg = s.cfg := rfl
@[simp] theorem State.respond_tick (s : State) (st : Status) (v : BitVec 32) : (s.respond st v).tick = s.tick := rfl
@[simp] theorem State.respond_slots (s : State) (st : Status) (v : BitVec 32) : (s.respond st v).slots = s.slots := rfl
@[simp] theorem State.respond_activeMask (s : State) (st : Status) (v : BitVec 32) : (s.respond st v).activeMask = s.activeMask := rfl
@[simp] theorem State.respond_agendaRunning (s : State) (st : Status) (v : BitVec 32) : (s.respond st v).agendaRunning = s.agendaRunning := rfl
@[simp] theorem State.respond_angle (s : State) (st : Status) (v : BitVec 32) : (s.respond st v).angle = s.angle := rfl
@[simp] theorem State.respond_currentChannel (s : State) (st : Status) (v : BitVec 32) : (s.respond st v).currentChannel = s.currentChannel := rfl
@[simp] theorem State.respond_servoRunning (s : State) (st : Status) (v : BitVec 32) : (s.respond st v).servoRunning = s.servoRunning := rfl
@[simp] theorem State.respond_servoCmpV (s : State) (st : Status) (v : BitVec 32) : (s.respond st v).servoCmpV = s.servoCmpV := rfl
@[simp] theorem State.respond_cmpOwed (s : State) (st : Status) (v : BitVec 32) : (s.respond st v).cmpOwed = s.cmpOwed := rfl
@[simp] theorem State.respond_cmpDone (s : State) (st : Status) (v : BitVec 32) : (s.respond st v).cmpDone = s.cmpDone := rfl
@[simp] theorem State.respond_line (s : State) (st : Status) (v : BitVec 32) : (s.respond st v).line = s.line := rfl
@[simp] theorem State.respond_ctx (s : State) (st : Status) (v : BitVec 32) : (s.respond st v).ctx = s.ctx := rfl
@[simp] theorem State.respond_gie (s : State) (st : Status) (v : BitVec 32) : (s.respond st v).gie = s.gie := rfl
@[simp] theorem State.respond_tickPeriod (s : State) (st : Status) (v : BitVec 32) : (s.respond st v).tickPeriod = s.tickPeriod := rfl
@[simp] theorem State.respond_tickCount (s : State) (st : Status) (v : BitVec 32) : (s.respond st v).tickCount = s.tickCount := rfl
@[simp] theorem State.respond_tickPf (s : State) (st : Status) (v : BitVec 32) : (s.respond st v).tickPf = s.tickPf := rfl
@[simp] theorem State.respond_servoPrescale (s : State) (st : Status) (v : BitVec 32) : (s.respond st v).servoPrescale = s.servoPrescale := rfl
@[simp] theorem State.respond_servoCount (s : State) (st : Status) (v : BitVec 32) : (s.respond st v).servoCount = s.servoCount := rfl
@[simp] theorem State.respond_servoOvfPf (s : State) (st : Status) (v : BitVec 32) : (s.respond st v).servoOvfPf = s.servoOvfPf := rfl
@[simp] theorem State.respond_servoCmpPf (s : State) (st : Status) (v : BitVec 32) : (s.respond st v).servoCmpPf = s.servoCmpPf := rfl
@[simp] theorem State.respond_moves (s : State) (st : Status) (v : BitVec 32) : (s.respond st v).moves = s.moves := rfl
@[simp] theorem State.respond_outputs (s : State) (st : Status) (v : BitVec 32) : (s.respond st v).outputs = s.outputs ++ [.response (respWord st v)] := rfl

/-! ### setSlot -/

@[simp] theorem State.setSlot_cfg (s : State) (i : SlotIx) (v : Slot) : (s.setSlot i v).cfg = s.cfg := rfl
@[simp] theorem State.setSlot_tick (s : State) (i : SlotIx) (v : Slot) : (s.setSlot i v).tick = s.tick := rfl
@[simp] theorem State.setSlot_slots (s : State) (i : SlotIx) (v : Slot) : (s.setSlot i v).slots = s.slots.set i.val v i.isLt := rfl
@[simp] theorem State.setSlot_activeMask (s : State) (i : SlotIx) (v : Slot) : (s.setSlot i v).activeMask = s.activeMask := rfl
@[simp] theorem State.setSlot_agendaRunning (s : State) (i : SlotIx) (v : Slot) : (s.setSlot i v).agendaRunning = s.agendaRunning := rfl
@[simp] theorem State.setSlot_angle (s : State) (i : SlotIx) (v : Slot) : (s.setSlot i v).angle = s.angle := rfl
@[simp] theorem State.setSlot_currentChannel (s : State) (i : SlotIx) (v : Slot) : (s.setSlot i v).currentChannel = s.currentChannel := rfl
@[simp] theorem State.setSlot_servoRunning (s : State) (i : SlotIx) (v : Slot) : (s.setSlot i v).servoRunning = s.servoRunning := rfl
@[simp] theorem State.setSlot_servoCmpV (s : State) (i : SlotIx) (v : Slot) : (s.setSlot i v).servoCmpV = s.servoCmpV := rfl
@[simp] theorem State.setSlot_cmpOwed (s : State) (i : SlotIx) (v : Slot) : (s.setSlot i v).cmpOwed = s.cmpOwed := rfl
@[simp] theorem State.setSlot_cmpDone (s : State) (i : SlotIx) (v : Slot) : (s.setSlot i v).cmpDone = s.cmpDone := rfl
@[simp] theorem State.setSlot_line (s : State) (i : SlotIx) (v : Slot) : (s.setSlot i v).line = s.line := rfl
@[simp] theorem State.setSlot_ctx (s : State) (i : SlotIx) (v : Slot) : (s.setSlot i v).ctx = s.ctx := rfl
@[simp] theorem State.setSlot_gie (s : State) (i : SlotIx) (v : Slot) : (s.setSlot i v).gie = s.gie := rfl
@[simp] theorem State.setSlot_tickPeriod (s : State) (i : SlotIx) (v : Slot) : (s.setSlot i v).tickPeriod = s.tickPeriod := rfl
@[simp] theorem State.setSlot_tickCount (s : State) (i : SlotIx) (v : Slot) : (s.setSlot i v).tickCount = s.tickCount := rfl
@[simp] theorem State.setSlot_tickPf (s : State) (i : SlotIx) (v : Slot) : (s.setSlot i v).tickPf = s.tickPf := rfl
@[simp] theorem State.setSlot_servoPrescale (s : State) (i : SlotIx) (v : Slot) : (s.setSlot i v).servoPrescale = s.servoPrescale := rfl
@[simp] theorem State.setSlot_servoCount (s : State) (i : SlotIx) (v : Slot) : (s.setSlot i v).servoCount = s.servoCount := rfl
@[simp] theorem State.setSlot_servoOvfPf (s : State) (i : SlotIx) (v : Slot) : (s.setSlot i v).servoOvfPf = s.servoOvfPf := rfl
@[simp] theorem State.setSlot_servoCmpPf (s : State) (i : SlotIx) (v : Slot) : (s.setSlot i v).servoCmpPf = s.servoCmpPf := rfl
@[simp] theorem State.setSlot_moves (s : State) (i : SlotIx) (v : Slot) : (s.setSlot i v).moves = s.moves := rfl
@[simp] theorem State.setSlot_outputs (s : State) (i : SlotIx) (v : Slot) : (s.setSlot i v).outputs = s.outputs := rfl

/-! ### activate -/

@[simp] theorem State.activate_cfg (s : State) (i : SlotIx) : (s.activate i).cfg = s.cfg := rfl
@[simp] theorem State.activate_tick (s : State) (i : SlotIx) : (s.activate i).tick = s.tick := rfl
@[simp] theorem State.activate_slots (s : State) (i : SlotIx) : (s.activate i).slots = s.slots := rfl
@[simp] theorem State.activate_activeMask (s : State) (i : SlotIx) : (s.activate i).activeMask = maskSet s.activeMask i := rfl
@[simp] theorem State.activate_agendaRunning (s : State) (i : SlotIx) : (s.activate i).agendaRunning = s.agendaRunning := rfl
@[simp] theorem State.activate_angle (s : State) (i : SlotIx) : (s.activate i).angle = s.angle := rfl
@[simp] theorem State.activate_currentChannel (s : State) (i : SlotIx) : (s.activate i).currentChannel = s.currentChannel := rfl
@[simp] theorem State.activate_servoRunning (s : State) (i : SlotIx) : (s.activate i).servoRunning = s.servoRunning := rfl
@[simp] theorem State.activate_servoCmpV (s : State) (i : SlotIx) : (s.activate i).servoCmpV = s.servoCmpV := rfl
@[simp] theorem State.activate_cmpOwed (s : State) (i : SlotIx) : (s.activate i).cmpOwed = s.cmpOwed := rfl
@[simp] theorem State.activate_cmpDone (s : State) (i : SlotIx) : (s.activate i).cmpDone = s.cmpDone := rfl
@[simp] theorem State.activate_line (s : State) (i : SlotIx) : (s.activate i).line = s.line := rfl
@[simp] theorem State.activate_ctx (s : State) (i : SlotIx) : (s.activate i).ctx = s.ctx := rfl
@[simp] theorem State.activate_gie (s : State) (i : SlotIx) : (s.activate i).gie = s.gie := rfl
@[simp] theorem State.activate_tickPeriod (s : State) (i : SlotIx) : (s.activate i).tickPeriod = s.tickPeriod := rfl
@[simp] theorem State.activate_tickCount (s : State) (i : SlotIx) : (s.activate i).tickCount = s.tickCount := rfl
@[simp] theorem State.activate_tickPf (s : State) (i : SlotIx) : (s.activate i).tickPf = s.tickPf := rfl
@[simp] theorem State.activate_servoPrescale (s : State) (i : SlotIx) : (s.activate i).servoPrescale = s.servoPrescale := rfl
@[simp] theorem State.activate_servoCount (s : State) (i : SlotIx) : (s.activate i).servoCount = s.servoCount := rfl
@[simp] theorem State.activate_servoOvfPf (s : State) (i : SlotIx) : (s.activate i).servoOvfPf = s.servoOvfPf := rfl
@[simp] theorem State.activate_servoCmpPf (s : State) (i : SlotIx) : (s.activate i).servoCmpPf = s.servoCmpPf := rfl
@[simp] theorem State.activate_moves (s : State) (i : SlotIx) : (s.activate i).moves = s.moves := rfl
@[simp] theorem State.activate_outputs (s : State) (i : SlotIx) : (s.activate i).outputs = s.outputs := rfl

/-! ### clearActive -/

@[simp] theorem State.clearActive_cfg (s : State) (i : SlotIx) : (s.clearActive i).cfg = s.cfg := rfl
@[simp] theorem State.clearActive_tick (s : State) (i : SlotIx) : (s.clearActive i).tick = s.tick := rfl
@[simp] theorem State.clearActive_slots (s : State) (i : SlotIx) : (s.clearActive i).slots = s.slots := rfl
@[simp] theorem State.clearActive_activeMask (s : State) (i : SlotIx) : (s.clearActive i).activeMask = maskClear s.activeMask i := rfl
@[simp] theorem State.clearActive_agendaRunning (s : State) (i : SlotIx) : (s.clearActive i).agendaRunning = s.agendaRunning := rfl
@[simp] theorem State.clearActive_angle (s : State) (i : SlotIx) : (s.clearActive i).angle = s.angle := rfl
@[simp] theorem State.clearActive_currentChannel (s : State) (i : SlotIx) : (s.clearActive i).currentChannel = s.currentChannel := rfl
@[simp] theorem State.clearActive_servoRunning (s : State) (i : SlotIx) : (s.clearActive i).servoRunning = s.servoRunning := rfl
@[simp] theorem State.clearActive_servoCmpV (s : State) (i : SlotIx) : (s.clearActive i).servoCmpV = s.servoCmpV := rfl
@[simp] theorem State.clearActive_cmpOwed (s : State) (i : SlotIx) : (s.clearActive i).cmpOwed = s.cmpOwed := rfl
@[simp] theorem State.clearActive_cmpDone (s : State) (i : SlotIx) : (s.clearActive i).cmpDone = s.cmpDone := rfl
@[simp] theorem State.clearActive_line (s : State) (i : SlotIx) : (s.clearActive i).line = s.line := rfl
@[simp] theorem State.clearActive_ctx (s : State) (i : SlotIx) : (s.clearActive i).ctx = s.ctx := rfl
@[simp] theorem State.clearActive_gie (s : State) (i : SlotIx) : (s.clearActive i).gie = s.gie := rfl
@[simp] theorem State.clearActive_tickPeriod (s : State) (i : SlotIx) : (s.clearActive i).tickPeriod = s.tickPeriod := rfl
@[simp] theorem State.clearActive_tickCount (s : State) (i : SlotIx) : (s.clearActive i).tickCount = s.tickCount := rfl
@[simp] theorem State.clearActive_tickPf (s : State) (i : SlotIx) : (s.clearActive i).tickPf = s.tickPf := rfl
@[simp] theorem State.clearActive_servoPrescale (s : State) (i : SlotIx) : (s.clearActive i).servoPrescale = s.servoPrescale := rfl
@[simp] theorem State.clearActive_servoCount (s : State) (i : SlotIx) : (s.clearActive i).servoCount = s.servoCount := rfl
@[simp] theorem State.clearActive_servoOvfPf (s : State) (i : SlotIx) : (s.clearActive i).servoOvfPf = s.servoOvfPf := rfl
@[simp] theorem State.clearActive_servoCmpPf (s : State) (i : SlotIx) : (s.clearActive i).servoCmpPf = s.servoCmpPf := rfl
@[simp] theorem State.clearActive_moves (s : State) (i : SlotIx) : (s.clearActive i).moves = s.moves := rfl
@[simp] theorem State.clearActive_outputs (s : State) (i : SlotIx) : (s.clearActive i).outputs = s.outputs := rfl

/-! ### armAgenda -/

@[simp] theorem State.armAgenda_cfg (s : State) : s.armAgenda.cfg = s.cfg := rfl
@[simp] theorem State.armAgenda_tick (s : State) : s.armAgenda.tick = s.tick := rfl
@[simp] theorem State.armAgenda_slots (s : State) : s.armAgenda.slots = s.slots := rfl
@[simp] theorem State.armAgenda_activeMask (s : State) : s.armAgenda.activeMask = s.activeMask := rfl
@[simp] theorem State.armAgenda_agendaRunning (s : State) : s.armAgenda.agendaRunning = true := rfl
@[simp] theorem State.armAgenda_angle (s : State) : s.armAgenda.angle = s.angle := rfl
@[simp] theorem State.armAgenda_currentChannel (s : State) : s.armAgenda.currentChannel = s.currentChannel := rfl
@[simp] theorem State.armAgenda_servoRunning (s : State) : s.armAgenda.servoRunning = s.servoRunning := rfl
@[simp] theorem State.armAgenda_servoCmpV (s : State) : s.armAgenda.servoCmpV = s.servoCmpV := rfl
@[simp] theorem State.armAgenda_cmpOwed (s : State) : s.armAgenda.cmpOwed = s.cmpOwed := rfl
@[simp] theorem State.armAgenda_cmpDone (s : State) : s.armAgenda.cmpDone = s.cmpDone := rfl
@[simp] theorem State.armAgenda_line (s : State) : s.armAgenda.line = s.line := rfl
@[simp] theorem State.armAgenda_ctx (s : State) : s.armAgenda.ctx = s.ctx := rfl
@[simp] theorem State.armAgenda_gie (s : State) : s.armAgenda.gie = s.armedGie := rfl
@[simp] theorem State.armAgenda_tickPeriod (s : State) : s.armAgenda.tickPeriod = s.cfg.tickPeriod := rfl
@[simp] theorem State.armAgenda_tickCount (s : State) : s.armAgenda.tickCount = s.tickCount := rfl
@[simp] theorem State.armAgenda_tickPf (s : State) : s.armAgenda.tickPf = false := rfl
@[simp] theorem State.armAgenda_servoPrescale (s : State) : s.armAgenda.servoPrescale = s.servoPrescale := rfl
@[simp] theorem State.armAgenda_servoCount (s : State) : s.armAgenda.servoCount = s.servoCount := rfl
@[simp] theorem State.armAgenda_servoOvfPf (s : State) : s.armAgenda.servoOvfPf = s.servoOvfPf := rfl
@[simp] theorem State.armAgenda_servoCmpPf (s : State) : s.armAgenda.servoCmpPf = s.servoCmpPf := rfl
@[simp] theorem State.armAgenda_moves (s : State) : s.armAgenda.moves = s.moves := rfl
@[simp] theorem State.armAgenda_outputs (s : State) : s.armAgenda.outputs = s.outputs := rfl

/-! ### disarmAgenda -/

@[simp] theorem State.disarmAgenda_cfg (s : State) : s.disarmAgenda.cfg = s.cfg := rfl
@[simp] theorem State.disarmAgenda_tick (s : State) : s.disarmAgenda.tick = s.tick := rfl
@[simp] theorem State.disarmAgenda_slots (s : State) : s.disarmAgenda.slots = s.slots := rfl
@[simp] theorem State.disarmAgenda_activeMask (s : State) : s.disarmAgenda.activeMask = s.activeMask := rfl
@[simp] theorem State.disarmAgenda_agendaRunning (s : State) : s.disarmAgenda.agendaRunning = false := rfl
@[simp] theorem State.disarmAgenda_angle (s : State) : s.disarmAgenda.angle = s.angle := rfl
@[simp] theorem State.disarmAgenda_currentChannel (s : State) : s.disarmAgenda.currentChannel = s.currentChannel := rfl
@[simp] theorem State.disarmAgenda_servoRunning (s : State) : s.disarmAgenda.servoRunning = s.servoRunning := rfl
@[simp] theorem State.disarmAgenda_servoCmpV (s : State) : s.disarmAgenda.servoCmpV = s.servoCmpV := rfl
@[simp] theorem State.disarmAgenda_cmpOwed (s : State) : s.disarmAgenda.cmpOwed = s.cmpOwed := rfl
@[simp] theorem State.disarmAgenda_cmpDone (s : State) : s.disarmAgenda.cmpDone = s.cmpDone := rfl
@[simp] theorem State.disarmAgenda_line (s : State) : s.disarmAgenda.line = s.line := rfl
@[simp] theorem State.disarmAgenda_ctx (s : State) : s.disarmAgenda.ctx = s.ctx := rfl
@[simp] theorem State.disarmAgenda_gie (s : State) : s.disarmAgenda.gie = s.gie := rfl
@[simp] theorem State.disarmAgenda_tickPeriod (s : State) : s.disarmAgenda.tickPeriod = s.tickPeriod := rfl
@[simp] theorem State.disarmAgenda_tickCount (s : State) : s.disarmAgenda.tickCount = s.tickCount := rfl
@[simp] theorem State.disarmAgenda_tickPf (s : State) : s.disarmAgenda.tickPf = s.tickPf := rfl
@[simp] theorem State.disarmAgenda_servoPrescale (s : State) : s.disarmAgenda.servoPrescale = s.servoPrescale := rfl
@[simp] theorem State.disarmAgenda_servoCount (s : State) : s.disarmAgenda.servoCount = s.servoCount := rfl
@[simp] theorem State.disarmAgenda_servoOvfPf (s : State) : s.disarmAgenda.servoOvfPf = s.servoOvfPf := rfl
@[simp] theorem State.disarmAgenda_servoCmpPf (s : State) : s.disarmAgenda.servoCmpPf = s.servoCmpPf := rfl
@[simp] theorem State.disarmAgenda_moves (s : State) : s.disarmAgenda.moves = s.moves := rfl
@[simp] theorem State.disarmAgenda_outputs (s : State) : s.disarmAgenda.outputs = s.outputs := rfl

/-! ### armServo -/

@[simp] theorem State.armServo_cfg (s : State) : s.armServo.cfg = s.cfg := rfl
@[simp] theorem State.armServo_tick (s : State) : s.armServo.tick = s.tick := rfl
@[simp] theorem State.armServo_slots (s : State) : s.armServo.slots = s.slots := rfl
@[simp] theorem State.armServo_activeMask (s : State) : s.armServo.activeMask = s.activeMask := rfl
@[simp] theorem State.armServo_agendaRunning (s : State) : s.armServo.agendaRunning = s.agendaRunning := rfl
@[simp] theorem State.armServo_angle (s : State) : s.armServo.angle = s.angle := rfl
@[simp] theorem State.armServo_currentChannel (s : State) : s.armServo.currentChannel = s.currentChannel := rfl
@[simp] theorem State.armServo_servoRunning (s : State) : s.armServo.servoRunning = true := rfl
@[simp] theorem State.armServo_servoCmpV (s : State) : s.armServo.servoCmpV = s.servoCmpV := rfl
@[simp] theorem State.armServo_cmpOwed (s : State) : s.armServo.cmpOwed = s.cmpOwed := rfl
@[simp] theorem State.armServo_cmpDone (s : State) : s.armServo.cmpDone = s.cmpDone := rfl
@[simp] theorem State.armServo_line (s : State) : s.armServo.line = s.line := rfl
@[simp] theorem State.armServo_ctx (s : State) : s.armServo.ctx = s.ctx := rfl
@[simp] theorem State.armServo_gie (s : State) : s.armServo.gie = s.armedGie := rfl
@[simp] theorem State.armServo_tickPeriod (s : State) : s.armServo.tickPeriod = s.tickPeriod := rfl
@[simp] theorem State.armServo_tickCount (s : State) : s.armServo.tickCount = s.tickCount := rfl
@[simp] theorem State.armServo_tickPf (s : State) : s.armServo.tickPf = s.tickPf := rfl
@[simp] theorem State.armServo_servoPrescale (s : State) : s.armServo.servoPrescale = s.cfg.servoPrescale := rfl
@[simp] theorem State.armServo_servoCount (s : State) : s.armServo.servoCount = s.cfg.servoPreload := rfl
@[simp] theorem State.armServo_servoOvfPf (s : State) : s.armServo.servoOvfPf = false := rfl
@[simp] theorem State.armServo_servoCmpPf (s : State) : s.armServo.servoCmpPf = false := rfl
@[simp] theorem State.armServo_moves (s : State) : s.armServo.moves = s.moves := rfl
@[simp] theorem State.armServo_outputs (s : State) : s.armServo.outputs = s.outputs := rfl

/-! ### setAngle -/

@[simp] theorem State.setAngle_cfg (s : State) (c : ChannelIx) (a : BitVec 8) : (s.setAngle c a).cfg = s.cfg := rfl
@[simp] theorem State.setAngle_tick (s : State) (c : ChannelIx) (a : BitVec 8) : (s.setAngle c a).tick = s.tick := rfl
@[simp] theorem State.setAngle_slots (s : State) (c : ChannelIx) (a : BitVec 8) : (s.setAngle c a).slots = s.slots := rfl
@[simp] theorem State.setAngle_activeMask (s : State) (c : ChannelIx) (a : BitVec 8) : (s.setAngle c a).activeMask = s.activeMask := rfl
@[simp] theorem State.setAngle_agendaRunning (s : State) (c : ChannelIx) (a : BitVec 8) : (s.setAngle c a).agendaRunning = s.agendaRunning := rfl
@[simp] theorem State.setAngle_angle (s : State) (c : ChannelIx) (a : BitVec 8) : (s.setAngle c a).angle = s.angle.set c.val a c.isLt := rfl
@[simp] theorem State.setAngle_currentChannel (s : State) (c : ChannelIx) (a : BitVec 8) : (s.setAngle c a).currentChannel = s.currentChannel := rfl
@[simp] theorem State.setAngle_servoRunning (s : State) (c : ChannelIx) (a : BitVec 8) : (s.setAngle c a).servoRunning = s.servoRunning := rfl
@[simp] theorem State.setAngle_servoCmpV (s : State) (c : ChannelIx) (a : BitVec 8) : (s.setAngle c a).servoCmpV = s.servoCmpV := rfl
@[simp] theorem State.setAngle_cmpOwed (s : State) (c : ChannelIx) (a : BitVec 8) : (s.setAngle c a).cmpOwed = s.cmpOwed := rfl
@[simp] theorem State.setAngle_cmpDone (s : State) (c : ChannelIx) (a : BitVec 8) : (s.setAngle c a).cmpDone = s.cmpDone := rfl
@[simp] theorem State.setAngle_line (s : State) (c : ChannelIx) (a : BitVec 8) : (s.setAngle c a).line = s.line := rfl
@[simp] theorem State.setAngle_ctx (s : State) (c : ChannelIx) (a : BitVec 8) : (s.setAngle c a).ctx = s.ctx := rfl
@[simp] theorem State.setAngle_gie (s : State) (c : ChannelIx) (a : BitVec 8) : (s.setAngle c a).gie = s.gie := rfl
@[simp] theorem State.setAngle_tickPeriod (s : State) (c : ChannelIx) (a : BitVec 8) : (s.setAngle c a).tickPeriod = s.tickPeriod := rfl
@[simp] theorem State.setAngle_tickCount (s : State) (c : ChannelIx) (a : BitVec 8) : (s.setAngle c a).tickCount = s.tickCount := rfl
@[simp] theorem State.setAngle_tickPf (s : State) (c : ChannelIx) (a : BitVec 8) : (s.setAngle c a).tickPf = s.tickPf := rfl
@[simp] theorem State.setAngle_servoPrescale (s : State) (c : ChannelIx) (a : BitVec 8) : (s.setAngle c a).servoPrescale = s.servoPrescale := rfl
@[simp] theorem State.setAngle_servoCount (s : State) (c : ChannelIx) (a : BitVec 8) : (s.setAngle c a).servoCount = s.servoCount := rfl
@[simp] theorem State.setAngle_servoOvfPf (s : State) (c : ChannelIx) (a : BitVec 8) : (s.setAngle c a).servoOvfPf = s.servoOvfPf := rfl
@[simp] theorem State.setAngle_servoCmpPf (s : State) (c : ChannelIx) (a : BitVec 8) : (s.setAngle c a).servoCmpPf = s.servoCmpPf := rfl
@[simp] theorem State.setAngle_moves (s : State) (c : ChannelIx) (a : BitVec 8) : (s.setAngle c a).moves = s.moves := rfl
@[simp] theorem State.setAngle_outputs (s : State) (c : ChannelIx) (a : BitVec 8) : (s.setAngle c a).outputs = s.outputs := rfl

/-! ### driveLine -/

@[simp] theorem State.driveLine_cfg (s : State) (c : ChannelIx) (v : Bool) : (s.driveLine c v).cfg = s.cfg := rfl
@[simp] theorem State.driveLine_tick (s : State) (c : ChannelIx) (v : Bool) : (s.driveLine c v).tick = s.tick := rfl
@[simp] theorem State.driveLine_slots (s : State) (c : ChannelIx) (v : Bool) : (s.driveLine c v).slots = s.slots := rfl
@[simp] theorem State.driveLine_activeMask (s : State) (c : ChannelIx) (v : Bool) : (s.driveLine c v).activeMask = s.activeMask := rfl
@[simp] theorem State.driveLine_agendaRunning (s : State) (c : ChannelIx) (v : Bool) : (s.driveLine c v).agendaRunning = s.agendaRunning := rfl
@[simp] theorem State.driveLine_angle (s : State) (c : ChannelIx) (v : Bool) : (s.driveLine c v).angle = s.angle := rfl
@[simp] theorem State.driveLine_currentChannel (s : State) (c : ChannelIx) (v : Bool) : (s.driveLine c v).currentChannel = s.currentChannel := rfl
@[simp] theorem State.driveLine_servoRunning (s : State) (c : ChannelIx) (v : Bool) : (s.driveLine c v).servoRunning = s.servoRunning := rfl
@[simp] theorem State.driveLine_servoCmpV (s : State) (c : ChannelIx) (v : Bool) : (s.driveLine c v).servoCmpV = s.servoCmpV := rfl
@[simp] theorem State.driveLine_cmpOwed (s : State) (c : ChannelIx) (v : Bool) : (s.driveLine c v).cmpOwed = s.cmpOwed := rfl
@[simp] theorem State.driveLine_cmpDone (s : State) (c : ChannelIx) (v : Bool) : (s.driveLine c v).cmpDone = s.cmpDone := rfl
@[simp] theorem State.driveLine_line (s : State) (c : ChannelIx) (v : Bool) : (s.driveLine c v).line = s.line.set c.val v c.isLt := rfl
@[simp] theorem State.driveLine_ctx (s : State) (c : ChannelIx) (v : Bool) : (s.driveLine c v).ctx = s.ctx := rfl
@[simp] theorem State.driveLine_gie (s : State) (c : ChannelIx) (v : Bool) : (s.driveLine c v).gie = s.gie := rfl
@[simp] theorem State.driveLine_tickPeriod (s : State) (c : ChannelIx) (v : Bool) : (s.driveLine c v).tickPeriod = s.tickPeriod := rfl
@[simp] theorem State.driveLine_tickCount (s : State) (c : ChannelIx) (v : Bool) : (s.driveLine c v).tickCount = s.tickCount := rfl
@[simp] theorem State.driveLine_tickPf (s : State) (c : ChannelIx) (v : Bool) : (s.driveLine c v).tickPf = s.tickPf := rfl
@[simp] theorem State.driveLine_servoPrescale (s : State) (c : ChannelIx) (v : Bool) : (s.driveLine c v).servoPrescale = s.servoPrescale := rfl
@[simp] theorem State.driveLine_servoCount (s : State) (c : ChannelIx) (v : Bool) : (s.driveLine c v).servoCount = s.servoCount := rfl
@[simp] theorem State.driveLine_servoOvfPf (s : State) (c : ChannelIx) (v : Bool) : (s.driveLine c v).servoOvfPf = s.servoOvfPf := rfl
@[simp] theorem State.driveLine_servoCmpPf (s : State) (c : ChannelIx) (v : Bool) : (s.driveLine c v).servoCmpPf = s.servoCmpPf := rfl
@[simp] theorem State.driveLine_moves (s : State) (c : ChannelIx) (v : Bool) : (s.driveLine c v).moves = s.moves := rfl
@[simp] theorem State.driveLine_outputs (s : State) (c : ChannelIx) (v : Bool) : (s.driveLine c v).outputs = s.outputs ++ [.gpioWrite (s.pinOf c).port (s.pinOf c).pin v] := rfl

/-! ### enterCallback -/

@[simp] theorem State.enterCallback_cfg (s : State) (i : SlotIx) (fn : Handle) : (s.enterCallback i fn).cfg = s.cfg := rfl
@[simp] theorem State.enterCallback_tick (s : State) (i : SlotIx) (fn : Handle) : (s.enterCallback i fn).tick = s.tick := rfl
@[simp] theorem State.enterCallback_slots (s : State) (i : SlotIx) (fn : Handle) : (s.enterCallback i fn).slots = s.slots := rfl
@[simp] theorem State.enterCallback_activeMask (s : State) (i : SlotIx) (fn : Handle) : (s.enterCallback i fn).activeMask = s.activeMask := rfl
@[simp] theorem State.enterCallback_agendaRunning (s : State) (i : SlotIx) (fn : Handle) : (s.enterCallback i fn).agendaRunning = s.agendaRunning := rfl
@[simp] theorem State.enterCallback_angle (s : State) (i : SlotIx) (fn : Handle) : (s.enterCallback i fn).angle = s.angle := rfl
@[simp] theorem State.enterCallback_currentChannel (s : State) (i : SlotIx) (fn : Handle) : (s.enterCallback i fn).currentChannel = s.currentChannel := rfl
@[simp] theorem State.enterCallback_servoRunning (s : State) (i : SlotIx) (fn : Handle) : (s.enterCallback i fn).servoRunning = s.servoRunning := rfl
@[simp] theorem State.enterCallback_servoCmpV (s : State) (i : SlotIx) (fn : Handle) : (s.enterCallback i fn).servoCmpV = s.servoCmpV := rfl
@[simp] theorem State.enterCallback_cmpOwed (s : State) (i : SlotIx) (fn : Handle) : (s.enterCallback i fn).cmpOwed = s.cmpOwed := rfl
@[simp] theorem State.enterCallback_cmpDone (s : State) (i : SlotIx) (fn : Handle) : (s.enterCallback i fn).cmpDone = s.cmpDone := rfl
@[simp] theorem State.enterCallback_line (s : State) (i : SlotIx) (fn : Handle) : (s.enterCallback i fn).line = s.line := rfl
@[simp] theorem State.enterCallback_ctx (s : State) (i : SlotIx) (fn : Handle) : (s.enterCallback i fn).ctx = .callback i := rfl
@[simp] theorem State.enterCallback_gie (s : State) (i : SlotIx) (fn : Handle) : (s.enterCallback i fn).gie = s.gie := rfl
@[simp] theorem State.enterCallback_tickPeriod (s : State) (i : SlotIx) (fn : Handle) : (s.enterCallback i fn).tickPeriod = s.tickPeriod := rfl
@[simp] theorem State.enterCallback_tickCount (s : State) (i : SlotIx) (fn : Handle) : (s.enterCallback i fn).tickCount = s.tickCount := rfl
@[simp] theorem State.enterCallback_tickPf (s : State) (i : SlotIx) (fn : Handle) : (s.enterCallback i fn).tickPf = s.tickPf := rfl
@[simp] theorem State.enterCallback_servoPrescale (s : State) (i : SlotIx) (fn : Handle) : (s.enterCallback i fn).servoPrescale = s.servoPrescale := rfl
@[simp] theorem State.enterCallback_servoCount (s : State) (i : SlotIx) (fn : Handle) : (s.enterCallback i fn).servoCount = s.servoCount := rfl
@[simp] theorem State.enterCallback_servoOvfPf (s : State) (i : SlotIx) (fn : Handle) : (s.enterCallback i fn).servoOvfPf = s.servoOvfPf := rfl
@[simp] theorem State.enterCallback_servoCmpPf (s : State) (i : SlotIx) (fn : Handle) : (s.enterCallback i fn).servoCmpPf = s.servoCmpPf := rfl
@[simp] theorem State.enterCallback_moves (s : State) (i : SlotIx) (fn : Handle) : (s.enterCallback i fn).moves = s.moves := rfl
@[simp] theorem State.enterCallback_outputs (s : State) (i : SlotIx) (fn : Handle) : (s.enterCallback i fn).outputs = s.outputs ++ [.fire i fn] := rfl

/-! ### leaveCallback -/

@[simp] theorem State.leaveCallback_cfg (s : State) : s.leaveCallback.cfg = s.cfg := rfl
@[simp] theorem State.leaveCallback_tick (s : State) : s.leaveCallback.tick = s.tick := rfl
@[simp] theorem State.leaveCallback_slots (s : State) : s.leaveCallback.slots = s.slots := rfl
@[simp] theorem State.leaveCallback_activeMask (s : State) : s.leaveCallback.activeMask = s.activeMask := rfl
@[simp] theorem State.leaveCallback_agendaRunning (s : State) : s.leaveCallback.agendaRunning = s.agendaRunning := rfl
@[simp] theorem State.leaveCallback_angle (s : State) : s.leaveCallback.angle = s.angle := rfl
@[simp] theorem State.leaveCallback_currentChannel (s : State) : s.leaveCallback.currentChannel = s.currentChannel := rfl
@[simp] theorem State.leaveCallback_servoRunning (s : State) : s.leaveCallback.servoRunning = s.servoRunning := rfl
@[simp] theorem State.leaveCallback_servoCmpV (s : State) : s.leaveCallback.servoCmpV = s.servoCmpV := rfl
@[simp] theorem State.leaveCallback_cmpOwed (s : State) : s.leaveCallback.cmpOwed = s.cmpOwed := rfl
@[simp] theorem State.leaveCallback_cmpDone (s : State) : s.leaveCallback.cmpDone = s.cmpDone := rfl
@[simp] theorem State.leaveCallback_line (s : State) : s.leaveCallback.line = s.line := rfl
@[simp] theorem State.leaveCallback_ctx (s : State) : s.leaveCallback.ctx = .normal := rfl
@[simp] theorem State.leaveCallback_gie (s : State) : s.leaveCallback.gie = s.gie := rfl
@[simp] theorem State.leaveCallback_tickPeriod (s : State) : s.leaveCallback.tickPeriod = s.tickPeriod := rfl
@[simp] theorem State.leaveCallback_tickCount (s : State) : s.leaveCallback.tickCount = s.tickCount := rfl
@[simp] theorem State.leaveCallback_tickPf (s : State) : s.leaveCallback.tickPf = s.tickPf := rfl
@[simp] theorem State.leaveCallback_servoPrescale (s : State) : s.leaveCallback.servoPrescale = s.servoPrescale := rfl
@[simp] theorem State.leaveCallback_servoCount (s : State) : s.leaveCallback.servoCount = s.servoCount := rfl
@[simp] theorem State.leaveCallback_servoOvfPf (s : State) : s.leaveCallback.servoOvfPf = s.servoOvfPf := rfl
@[simp] theorem State.leaveCallback_servoCmpPf (s : State) : s.leaveCallback.servoCmpPf = s.servoCmpPf := rfl
@[simp] theorem State.leaveCallback_moves (s : State) : s.leaveCallback.moves = s.moves := rfl
@[simp] theorem State.leaveCallback_outputs (s : State) : s.leaveCallback.outputs = s.outputs := rfl

/-! ### countTick -/

@[simp] theorem State.countTick_cfg (s : State) : s.countTick.cfg = s.cfg := rfl
@[simp] theorem State.countTick_tick (s : State) : s.countTick.tick = s.tick + 1 := rfl
@[simp] theorem State.countTick_slots (s : State) : s.countTick.slots = s.slots := rfl
@[simp] theorem State.countTick_activeMask (s : State) : s.countTick.activeMask = s.activeMask := rfl
@[simp] theorem State.countTick_agendaRunning (s : State) : s.countTick.agendaRunning = s.agendaRunning := rfl
@[simp] theorem State.countTick_angle (s : State) : s.countTick.angle = s.angle := rfl
@[simp] theorem State.countTick_currentChannel (s : State) : s.countTick.currentChannel = s.currentChannel := rfl
@[simp] theorem State.countTick_servoRunning (s : State) : s.countTick.servoRunning = s.servoRunning := rfl
@[simp] theorem State.countTick_servoCmpV (s : State) : s.countTick.servoCmpV = s.servoCmpV := rfl
@[simp] theorem State.countTick_cmpOwed (s : State) : s.countTick.cmpOwed = s.cmpOwed := rfl
@[simp] theorem State.countTick_cmpDone (s : State) : s.countTick.cmpDone = s.cmpDone := rfl
@[simp] theorem State.countTick_line (s : State) : s.countTick.line = s.line := rfl
@[simp] theorem State.countTick_ctx (s : State) : s.countTick.ctx = s.ctx := rfl
@[simp] theorem State.countTick_gie (s : State) : s.countTick.gie = s.gie := rfl
@[simp] theorem State.countTick_tickPeriod (s : State) : s.countTick.tickPeriod = s.tickPeriod := rfl
@[simp] theorem State.countTick_tickCount (s : State) : s.countTick.tickCount = 0 := rfl
@[simp] theorem State.countTick_tickPf (s : State) : s.countTick.tickPf = s.tickPf := rfl
@[simp] theorem State.countTick_servoPrescale (s : State) : s.countTick.servoPrescale = s.servoPrescale := rfl
@[simp] theorem State.countTick_servoCount (s : State) : s.countTick.servoCount = s.servoCount := rfl
@[simp] theorem State.countTick_servoOvfPf (s : State) : s.countTick.servoOvfPf = s.servoOvfPf := rfl
@[simp] theorem State.countTick_servoCmpPf (s : State) : s.countTick.servoCmpPf = s.servoCmpPf := rfl
@[simp] theorem State.countTick_moves (s : State) : s.countTick.moves = s.moves := rfl
@[simp] theorem State.countTick_outputs (s : State) : s.countTick.outputs = s.outputs := rfl

/-! ### beginCycle -/

@[simp] theorem State.beginCycle_cfg (s : State) : s.beginCycle.cfg = s.cfg := rfl
@[simp] theorem State.beginCycle_tick (s : State) : s.beginCycle.tick = s.tick := rfl
@[simp] theorem State.beginCycle_slots (s : State) : s.beginCycle.slots = s.slots := rfl
@[simp] theorem State.beginCycle_activeMask (s : State) : s.beginCycle.activeMask = s.activeMask := rfl
@[simp] theorem State.beginCycle_agendaRunning (s : State) : s.beginCycle.agendaRunning = s.agendaRunning := rfl
@[simp] theorem State.beginCycle_angle (s : State) : s.beginCycle.angle = s.angle := rfl
@[simp] theorem State.beginCycle_currentChannel (s : State) : s.beginCycle.currentChannel = nextChannel s.currentChannel := rfl
@[simp] theorem State.beginCycle_servoRunning (s : State) : s.beginCycle.servoRunning = s.servoRunning := rfl
@[simp] theorem State.beginCycle_servoCmpV (s : State) : s.beginCycle.servoCmpV = s.servoCmpV := rfl
@[simp] theorem State.beginCycle_cmpOwed (s : State) : s.beginCycle.cmpOwed = s.cmpOwed := rfl
@[simp] theorem State.beginCycle_cmpDone (s : State) : s.beginCycle.cmpDone = false := rfl
@[simp] theorem State.beginCycle_line (s : State) : s.beginCycle.line = s.line := rfl
@[simp] theorem State.beginCycle_ctx (s : State) : s.beginCycle.ctx = s.ctx := rfl
@[simp] theorem State.beginCycle_gie (s : State) : s.beginCycle.gie = s.gie := rfl
@[simp] theorem State.beginCycle_tickPeriod (s : State) : s.beginCycle.tickPeriod = s.tickPeriod := rfl
@[simp] theorem State.beginCycle_tickCount (s : State) : s.beginCycle.tickCount = s.tickCount := rfl
@[simp] theorem State.beginCycle_tickPf (s : State) : s.beginCycle.tickPf = s.tickPf := rfl
@[simp] theorem State.beginCycle_servoPrescale (s : State) : s.beginCycle.servoPrescale = s.servoPrescale := rfl
@[simp] theorem State.beginCycle_servoCount (s : State) : s.beginCycle.servoCount = s.cfg.servoPreload := rfl
@[simp] theorem State.beginCycle_servoOvfPf (s : State) : s.beginCycle.servoOvfPf = s.servoOvfPf := rfl
@[simp] theorem State.beginCycle_servoCmpPf (s : State) : s.beginCycle.servoCmpPf = s.servoCmpPf := rfl
@[simp] theorem State.beginCycle_moves (s : State) : s.beginCycle.moves = s.moves := rfl
@[simp] theorem State.beginCycle_outputs (s : State) : s.beginCycle.outputs = s.outputs := rfl

/-! ### beginPulse -/

@[simp] theorem State.beginPulse_cfg (s : State) : s.beginPulse.cfg = s.cfg := rfl
@[simp] theorem State.beginPulse_tick (s : State) : s.beginPulse.tick = s.tick := rfl
@[simp] theorem State.beginPulse_slots (s : State) : s.beginPulse.slots = s.slots := rfl
@[simp] theorem State.beginPulse_activeMask (s : State) : s.beginPulse.activeMask = s.activeMask := rfl
@[simp] theorem State.beginPulse_agendaRunning (s : State) : s.beginPulse.agendaRunning = s.agendaRunning := rfl
@[simp] theorem State.beginPulse_angle (s : State) : s.beginPulse.angle = s.angle := rfl
@[simp] theorem State.beginPulse_currentChannel (s : State) : s.beginPulse.currentChannel = s.currentChannel := rfl
@[simp] theorem State.beginPulse_servoRunning (s : State) : s.beginPulse.servoRunning = s.servoRunning := rfl
@[simp] theorem State.beginPulse_servoCmpV (s : State) : s.beginPulse.servoCmpV = committedPulse (s.angleOf s.currentChannel) := rfl
@[simp] theorem State.beginPulse_cmpOwed (s : State) : s.beginPulse.cmpOwed = true := rfl
@[simp] theorem State.beginPulse_cmpDone (s : State) : s.beginPulse.cmpDone = s.cmpDone := rfl
@[simp] theorem State.beginPulse_line (s : State) : s.beginPulse.line = s.line.set s.currentChannel.val true s.currentChannel.isLt := rfl
@[simp] theorem State.beginPulse_ctx (s : State) : s.beginPulse.ctx = s.ctx := rfl
@[simp] theorem State.beginPulse_gie (s : State) : s.beginPulse.gie = s.gie := rfl
@[simp] theorem State.beginPulse_tickPeriod (s : State) : s.beginPulse.tickPeriod = s.tickPeriod := rfl
@[simp] theorem State.beginPulse_tickCount (s : State) : s.beginPulse.tickCount = s.tickCount := rfl
@[simp] theorem State.beginPulse_tickPf (s : State) : s.beginPulse.tickPf = s.tickPf := rfl
@[simp] theorem State.beginPulse_servoPrescale (s : State) : s.beginPulse.servoPrescale = s.servoPrescale := rfl
@[simp] theorem State.beginPulse_servoCount (s : State) : s.beginPulse.servoCount = s.servoCount := rfl
@[simp] theorem State.beginPulse_servoOvfPf (s : State) : s.beginPulse.servoOvfPf = s.servoOvfPf := rfl
@[simp] theorem State.beginPulse_servoCmpPf (s : State) : s.beginPulse.servoCmpPf = s.servoCmpPf := rfl
@[simp] theorem State.beginPulse_moves (s : State) : s.beginPulse.moves = s.moves := rfl
@[simp] theorem State.beginPulse_outputs (s : State) : s.beginPulse.outputs = s.outputs ++ [.gpioWrite (s.pinOf s.currentChannel).port (s.pinOf s.currentChannel).pin true] := rfl

/-! ### cmpHandler -/

@[simp] theorem State.cmpHandler_cfg (s : State) : s.cmpHandler.cfg = s.cfg := rfl
@[simp] theorem State.cmpHandler_tick (s : State) : s.cmpHandler.tick = s.tick := rfl
@[simp] theorem State.cmpHandler_slots (s : State) : s.cmpHandler.slots = s.slots := rfl
@[simp] theorem State.cmpHandler_activeMask (s : State) : s.cmpHandler.activeMask = s.activeMask := rfl
@[simp] theorem State.cmpHandler_agendaRunning (s : State) : s.cmpHandler.agendaRunning = s.agendaRunning := rfl
@[simp] theorem State.cmpHandler_angle (s : State) : s.cmpHandler.angle = s.angle := rfl
@[simp] theorem State.cmpHandler_currentChannel (s : State) : s.cmpHandler.currentChannel = s.currentChannel := rfl
@[simp] theorem State.cmpHandler_servoRunning (s : State) : s.cmpHandler.servoRunning = s.servoRunning := rfl
@[simp] theorem State.cmpHandler_servoCmpV (s : State) : s.cmpHandler.servoCmpV = s.servoCmpV := rfl
@[simp] theorem State.cmpHandler_cmpOwed (s : State) : s.cmpHandler.cmpOwed = false := rfl
@[simp] theorem State.cmpHandler_cmpDone (s : State) : s.cmpHandler.cmpDone = true := rfl
@[simp] theorem State.cmpHandler_line (s : State) : s.cmpHandler.line = s.line.set s.currentChannel.val false s.currentChannel.isLt := rfl
@[simp] theorem State.cmpHandler_ctx (s : State) : s.cmpHandler.ctx = s.ctx := rfl
@[simp] theorem State.cmpHandler_gie (s : State) : s.cmpHandler.gie = s.gie := rfl
@[simp] theorem State.cmpHandler_tickPeriod (s : State) : s.cmpHandler.tickPeriod = s.tickPeriod := rfl
@[simp] theorem State.cmpHandler_tickCount (s : State) : s.cmpHandler.tickCount = s.tickCount := rfl
@[simp] theorem State.cmpHandler_tickPf (s : State) : s.cmpHandler.tickPf = s.tickPf := rfl
@[simp] theorem State.cmpHandler_servoPrescale (s : State) : s.cmpHandler.servoPrescale = s.servoPrescale := rfl
@[simp] theorem State.cmpHandler_servoCount (s : State) : s.cmpHandler.servoCount = s.servoCount := rfl
@[simp] theorem State.cmpHandler_servoOvfPf (s : State) : s.cmpHandler.servoOvfPf = s.servoOvfPf := rfl
@[simp] theorem State.cmpHandler_servoCmpPf (s : State) : s.cmpHandler.servoCmpPf = s.servoCmpPf := rfl
@[simp] theorem State.cmpHandler_moves (s : State) : s.cmpHandler.moves = s.moves := rfl
@[simp] theorem State.cmpHandler_outputs (s : State) : s.cmpHandler.outputs = s.outputs ++ [.gpioWrite (s.pinOf s.currentChannel).port (s.pinOf s.currentChannel).pin false] := rfl

/-! ### armAgendaIfIdle: the fields it never writes -/

@[simp] theorem State.armAgendaIfIdle_cfg (s : State) : s.armAgendaIfIdle.cfg = s.cfg := by
  unfold State.armAgendaIfIdle; split <;> rfl
@[simp] theorem State.armAgendaIfIdle_tick (s : State) : s.armAgendaIfIdle.tick = s.tick := by
  unfold State.armAgendaIfIdle; split <;> rfl
@[simp] theorem State.armAgendaIfIdle_slots (s : State) : s.armAgendaIfIdle.slots = s.slots := by
  unfold State.armAgendaIfIdle; split <;> rfl
@[simp] theorem State.armAgendaIfIdle_activeMask (s : State) : s.armAgendaIfIdle.activeMask = s.activeMask := by
  unfold State.armAgendaIfIdle; split <;> rfl
@[simp] theorem State.armAgendaIfIdle_angle (s : State) : s.armAgendaIfIdle.angle = s.angle := by
  unfold State.armAgendaIfIdle; split <;> rfl
@[simp] theorem State.armAgendaIfIdle_currentChannel (s : State) : s.armAgendaIfIdle.currentChannel = s.currentChannel := by
  unfold State.armAgendaIfIdle; split <;> rfl
@[simp] theorem State.armAgendaIfIdle_servoRunning (s : State) : s.armAgendaIfIdle.servoRunning = s.servoRunning := by
  unfold State.armAgendaIfIdle; split <;> rfl
@[simp] theorem State.armAgendaIfIdle_servoCmpV (s : State) : s.armAgendaIfIdle.servoCmpV = s.servoCmpV := by
  unfold State.armAgendaIfIdle; split <;> rfl
@[simp] theorem State.armAgendaIfIdle_cmpOwed (s : State) : s.armAgendaIfIdle.cmpOwed = s.cmpOwed := by
  unfold State.armAgendaIfIdle; split <;> rfl
@[simp] theorem State.armAgendaIfIdle_cmpDone (s : State) : s.armAgendaIfIdle.cmpDone = s.cmpDone := by
  unfold State.armAgendaIfIdle; split <;> rfl
@[simp] theorem State.armAgendaIfIdle_line (s : State) : s.armAgendaIfIdle.line = s.line := by
  unfold State.armAgendaIfIdle; split <;> rfl
@[simp] theorem State.armAgendaIfIdle_ctx (s : State) : s.armAgendaIfIdle.ctx = s.ctx := by
  unfold State.armAgendaIfIdle; split <;> rfl
@[simp] theorem State.armAgendaIfIdle_tickCount (s : State) : s.armAgendaIfIdle.tickCount = s.tickCount := by
  unfold State.armAgendaIfIdle; split <;> rfl
@[simp] theorem State.armAgendaIfIdle_servoPrescale (s : State) : s.armAgendaIfIdle.servoPrescale = s.servoPrescale := by
  unfold State.armAgendaIfIdle; split <;> rfl
@[simp] theorem State.armAgendaIfIdle_servoCount (s : State) : s.armAgendaIfIdle.servoCount = s.servoCount := by
  unfold State.armAgendaIfIdle; split <;> rfl
@[simp] theorem State.armAgendaIfIdle_servoOvfPf (s : State) : s.armAgendaIfIdle.servoOvfPf = s.servoOvfPf := by
  unfold State.armAgendaIfIdle; split <;> rfl
@[simp] theorem State.armAgendaIfIdle_servoCmpPf (s : State) : s.armAgendaIfIdle.servoCmpPf = s.servoCmpPf := by
  unfold State.armAgendaIfIdle; split <;> rfl
@[simp] theorem State.armAgendaIfIdle_moves (s : State) : s.armAgendaIfIdle.moves = s.moves := by
  unfold State.armAgendaIfIdle; split <;> rfl
@[simp] theorem State.armAgendaIfIdle_outputs (s : State) : s.armAgendaIfIdle.outputs = s.outputs := by
  unfold State.armAgendaIfIdle; split <;> rfl

/-! ### armServoIfIdle: the fields it never writes -/

@[simp] theorem State.armServoIfIdle_cfg (s : State) : s.armServoIfIdle.cfg = s.cfg := by
  unfold State.armServoIfIdle; split <;> rfl
@[simp] theorem State.armServoIfIdle_tick (s : State) : s.armServoIfIdle.tick = s.tick := by
  unfold State.armServoIfIdle; split <;> rfl
@[simp] theorem State.armServoIfIdle_slots (s : State) : s.armServoIfIdle.slots = s.slots := by
  unfold State.armServoIfIdle; split <;> rfl
@[simp] theorem State.armServoIfIdle_activeMask (s : State) : s.armServoIfIdle.activeMask = s.activeMask := by
  unfold State.armServoIfIdle; split <;> rfl
@[simp] theorem State.armServoIfIdle_agendaRunning (s : State) : s.armServoIfIdle.agendaRunning = s.agendaRunning := by
  unfold State.armServoIfIdle; split <;> rfl
@[simp] theorem State.armServoIfIdle_angle (s : State) : s.armServoIfIdle.angle = s.angle := by
  unfold State.armServoIfIdle; split <;> rfl
@[simp] theorem State.armServoIfIdle_currentChannel (s : State) : s.armServoIfIdle.currentChannel = s.currentChannel := by
  unfold State.armServoIfIdle; split <;> rfl
@[simp] theorem State.armServoIfIdle_servoCmpV (s : State) : s.armServoIfIdle.servoCmpV = s.servoCmpV := by
  unfold State.armServoIfIdle; split <;> rfl
@[simp] theorem State.armServoIfIdle_cmpOwed (s : State) : s.armServoIfIdle.cmpOwed = s.cmpOwed := by
  unfold State.armServoIfIdle; split <;> rfl
@[simp] theorem State.armServoIfIdle_cmpDone (s : State) : s.armServoIfIdle.cmpDone = s.cmpDone := by
  unfold State.armServoIfIdle; split <;> rfl
@[simp] theorem State.armServoIfIdle_line (s : State) : s.armServoIfIdle.line = s.line := by
  unfold State.armServoIfIdle; split <;> rfl
@[simp] theorem State.armServoIfIdle_ctx (s : State) : s.armServoIfIdle.ctx = s.ctx := by
  unfold State.armServoIfIdle; split <;> rfl
@[simp] theorem State.armServoIfIdle_tickPeriod (s : State) : s.armServoIfIdle.tickPeriod = s.tickPeriod := by
  unfold State.armServoIfIdle; split <;> rfl
@[simp] theorem State.armServoIfIdle_tickCount (s : State) : s.armServoIfIdle.tickCount = s.tickCount := by
  unfold State.armServoIfIdle; split <;> rfl
@[simp] theorem State.armServoIfIdle_tickPf (s : State) : s.armServoIfIdle.tickPf = s.tickPf := by
  unfold State.armServoIfIdle; split <;> rfl
@[simp] theorem State.armServoIfIdle_moves (s : State) : s.armServoIfIdle.moves = s.moves := by
  unfold State.armServoIfIdle; split <;> rfl
@[simp] theorem State.armServoIfIdle_outputs (s : State) : s.armServoIfIdle.outputs = s.outputs := by
  unfold State.armServoIfIdle; split <;> rfl

/-! ### disarmAgendaIfEmpty: the fields it never writes -/

@[simp] theorem State.disarmAgendaIfEmpty_cfg (s : State) : s.disarmAgendaIfEmpty.cfg = s.cfg := by
  unfold State.disarmAgendaIfEmpty; split <;> rfl
@[simp] theorem State.disarmAgendaIfEmpty_tick (s : State) : s.disarmAgendaIfEmpty.tick = s.tick := by
  unfold State.disarmAgendaIfEmpty; split <;> rfl
@[simp] theorem State.disarmAgendaIfEmpty_slots (s : State) : s.disarmAgendaIfEmpty.slots = s.slots := by
  unfold State.disarmAgendaIfEmpty; split <;> rfl
@[simp] theorem State.disarmAgendaIfEmpty_activeMask (s : State) : s.disarmAgendaIfEmpty.activeMask = s.activeMask := by
  unfold State.disarmAgendaIfEmpty; split <;> rfl
@[simp] theorem State.disarmAgendaIfEmpty_angle (s : State) : s.disarmAgendaIfEmpty.angle = s.angle := by
  unfold State.disarmAgendaIfEmpty; split <;> rfl
@[simp] theorem State.disarmAgendaIfEmpty_currentChannel (s : State) : s.disarmAgendaIfEmpty.currentChannel = s.currentChannel := by
  unfold State.disarmAgendaIfEmpty; split <;> rfl
@[simp] theorem State.disarmAgendaIfEmpty_servoRunning (s : State) : s.disarmAgendaIfEmpty.servoRunning = s.servoRunning := by
  unfold State.disarmAgendaIfEmpty; split <;> rfl
@[simp] theorem State.disarmAgendaIfEmpty_servoCmpV (s : State) : s.disarmAgendaIfEmpty.servoCmpV = s.servoCmpV := by
  unfold State.disarmAgendaIfEmpty; split <;> rfl
@[simp] theorem State.disarmAgendaIfEmpty_cmpOwed (s : State) : s.disarmAgendaIfEmpty.cmpOwed = s.cmpOwed := by
  unfold State.disarmAgendaIfEmpty; split <;> rfl
@[simp] theorem State.disarmAgendaIfEmpty_cmpDone (s : State) : s.disarmAgendaIfEmpty.cmpDone = s.cmpDone := by
  unfold State.disarmAgendaIfEmpty; split <;> rfl
@[simp] theorem State.disarmAgendaIfEmpty_line (s : State) : s.disarmAgendaIfEmpty.line = s.line := by
  unfold State.disarmAgendaIfEmpty; split <;> rfl
@[simp] theorem State.disarmAgendaIfEmpty_ctx (s : State) : s.disarmAgendaIfEmpty.ctx = s.ctx := by
  unfold State.disarmAgendaIfEmpty; split <;> rfl
@[simp] theorem State.disarmAgendaIfEmpty_gie (s : State) : s.disarmAgendaIfEmpty.gie = s.gie := by
  unfold State.disarmAgendaIfEmpty; split <;> rfl
@[simp] theorem State.disarmAgendaIfEmpty_tickPeriod (s : State) : s.disarmAgendaIfEmpty.tickPeriod = s.tickPeriod := by
  unfold State.disarmAgendaIfEmpty; split <;> rfl
@[simp] theorem State.disarmAgendaIfEmpty_tickCount (s : State) : s.disarmAgendaIfEmpty.tickCount = s.tickCount := by
  unfold State.disarmAgendaIfEmpty; split <;> rfl
@[simp] theorem State.disarmAgendaIfEmpty_tickPf (s : State) : s.disarmAgendaIfEmpty.tickPf = s.tickPf := by
  unfold State.disarmAgendaIfEmpty; split <;> rfl
@[simp] theorem State.disarmAgendaIfEmpty_servoPrescale (s : State) : s.disarmAgendaIfEmpty.servoPrescale = s.servoPrescale := by
  unfold State.disarmAgendaIfEmpty; split <;> rfl
@[simp] theorem State.disarmAgendaIfEmpty_servoCount (s : State) : s.disarmAgendaIfEmpty.servoCount = s.servoCount := by
  unfold State.disarmAgendaIfEmpty; split <;> rfl
@[simp] theorem State.disarmAgendaIfEmpty_servoOvfPf (s : State) : s.disarmAgendaIfEmpty.servoOvfPf = s.servoOvfPf := by
  unfold State.disarmAgendaIfEmpty; split <;> rfl
@[simp] theorem State.disarmAgendaIfEmpty_servoCmpPf (s : State) : s.disarmAgendaIfEmpty.servoCmpPf = s.servoCmpPf := by
  unfold State.disarmAgendaIfEmpty; split <;> rfl
@[simp] theorem State.disarmAgendaIfEmpty_moves (s : State) : s.disarmAgendaIfEmpty.moves = s.moves := by
  unfold State.disarmAgendaIfEmpty; split <;> rfl
@[simp] theorem State.disarmAgendaIfEmpty_outputs (s : State) : s.disarmAgendaIfEmpty.outputs = s.outputs := by
  unfold State.disarmAgendaIfEmpty; split <;> rfl

/-! ### deactivate, occupy, fireUpdate: the fields they never write -/

@[simp] theorem State.deactivate_cfg (s : State) (i : SlotIx) : (s.deactivate i).cfg = s.cfg := by
  simp [State.deactivate]
@[simp] theorem State.deactivate_tick (s : State) (i : SlotIx) : (s.deactivate i).tick = s.tick := by
  simp [State.deactivate]
@[simp] theorem State.deactivate_slots (s : State) (i : SlotIx) : (s.deactivate i).slots = s.slots := by
  simp [State.deactivate]
@[simp] theorem State.deactivate_angle (s : State) (i : SlotIx) : (s.deactivate i).angle = s.angle := by
  simp [State.deactivate]
@[simp] theorem State.deactivate_currentChannel (s : State) (i : SlotIx) : (s.deactivate i).currentChannel = s.currentChannel := by
  simp [State.deactivate]
@[simp] theorem State.deactivate_servoRunning (s : State) (i : SlotIx) : (s.deactivate i).servoRunning = s.servoRunning := by
  simp [State.deactivate]
@[simp] theorem State.deactivate_servoCmpV (s : State) (i : SlotIx) : (s.deactivate i).servoCmpV = s.servoCmpV := by
  simp [State.deactivate]
@[simp] theorem State.deactivate_cmpOwed (s : State) (i : SlotIx) : (s.deactivate i).cmpOwed = s.cmpOwed := by
  simp [State.deactivate]
@[simp] theorem State.deactivate_cmpDone (s : State) (i : SlotIx) : (s.deactivate i).cmpDone = s.cmpDone := by
  simp [State.deactivate]
@[simp] theorem State.deactivate_line (s : State) (i : SlotIx) : (s.deactivate i).line = s.line := by
  simp [State.deactivate]
@[simp] theorem State.deactivate_ctx (s : State) (i : SlotIx) : (s.deactivate i).ctx = s.ctx := by
  simp [State.deactivate]
@[simp] theorem State.deactivate_gie (s : State) (i : SlotIx) : (s.deactivate i).gie = s.gie := by
  simp [State.deactivate]
@[simp] theorem State.deactivate_tickPeriod (s : State) (i : SlotIx) : (s.deactivate i).tickPeriod = s.tickPeriod := by
  simp [State.deactivate]
@[simp] theorem State.deactivate_tickCount (s : State) (i : SlotIx) : (s.deactivate i).tickCount = s.tickCount := by
  simp [State.deactivate]
@[simp] theorem State.deactivate_tickPf (s : State) (i : SlotIx) : (s.deactivate i).tickPf = s.tickPf := by
  simp [State.deactivate]
@[simp] theorem State.deactivate_servoPrescale (s : State) (i : SlotIx) : (s.deactivate i).servoPrescale = s.servoPrescale := by
  simp [State.deactivate]
@[simp] theorem State.deactivate_servoCount (s : State) (i : SlotIx) : (s.deactivate i).servoCount = s.servoCount := by
  simp [State.deactivate]
@[simp] theorem State.deactivate_servoOvfPf (s : State) (i : SlotIx) : (s.deactivate i).servoOvfPf = s.servoOvfPf := by
  simp [State.deactivate]
@[simp] theorem State.deactivate_servoCmpPf (s : State) (i : SlotIx) : (s.deactivate i).servoCmpPf = s.servoCmpPf := by
  simp [State.deactivate]
@[simp] theorem State.deactivate_moves (s : State) (i : SlotIx) : (s.deactivate i).moves = s.moves := by
  simp [State.deactivate]
@[simp] theorem State.deactivate_outputs (s : State) (i : SlotIx) : (s.deactivate i).outputs = s.outputs := by
  simp [State.deactivate]
@[simp] theorem State.occupy_cfg (s : State) (i : SlotIx) (fn : Handle) (rpt : Count) (ivl : Tick) :
    (s.occupy i fn rpt ivl).cfg = s.cfg := by
  simp [State.occupy]
@[simp] theorem State.occupy_tick (s : State) (i : SlotIx) (fn : Handle) (rpt : Count) (ivl : Tick) :
    (s.occupy i fn rpt ivl).tick = s.tick := by
  simp [State.occupy]
@[simp] theorem State.occupy_angle (s : State) (i : SlotIx) (fn : Handle) (rpt : Count) (ivl : Tick) :
    (s.occupy i fn rpt ivl).angle = s.angle := by
  simp [State.occupy]
@[simp] theorem State.occupy_currentChannel (s : State) (i : SlotIx) (fn : Handle) (rpt : Count) (ivl : Tick) :
    (s.occupy i fn rpt ivl).currentChannel = s.currentChannel := by
  simp [State.occupy]
@[simp] theorem State.occupy_servoRunning (s : State) (i : SlotIx) (fn : Handle) (rpt : Count) (ivl : Tick) :
    (s.occupy i fn rpt ivl).servoRunning = s.servoRunning := by
  simp [State.occupy]
@[simp] theorem State.occupy_servoCmpV (s : State) (i : SlotIx) (fn : Handle) (rpt : Count) (ivl : Tick) :
    (s.occupy i fn rpt ivl).servoCmpV = s.servoCmpV := by
  simp [State.occupy]
@[simp] theorem State.occupy_cmpOwed (s : State) (i : SlotIx) (fn : Handle) (rpt : Count) (ivl : Tick) :
    (s.occupy i fn rpt ivl).cmpOwed = s.cmpOwed := by
  simp [State.occupy]
@[simp] theorem State.occupy_cmpDone (s : State) (i : SlotIx) (fn : Handle) (rpt : Count) (ivl : Tick) :
    (s.occupy i fn rpt ivl).cmpDone = s.cmpDone := by
  simp [State.occupy]
@[simp] theorem State.occupy_line (s : State) (i : SlotIx) (fn : Handle) (rpt : Count) (ivl : Tick) :
    (s.occupy i fn rpt ivl).line = s.line := by
  simp [State.occupy]
@[simp] theorem State.occupy_ctx (s : State) (i : SlotIx) (fn : Handle) (rpt : Count) (ivl : Tick) :
    (s.occupy i fn rpt ivl).ctx = s.ctx := by
  simp [State.occupy]
@[simp] theorem State.occupy_tickCount (s : State) (i : SlotIx) (fn : Handle) (rpt : Count) (ivl : Tick) :
    (s.occupy i fn rpt ivl).tickCount = s.tickCount := by
  simp [State.occupy]
@[simp] theorem State.occupy_servoPrescale (s : State) (i : SlotIx) (fn : Handle) (rpt : Count) (ivl : Tick) :
    (s.occupy i fn rpt ivl).servoPrescale = s.servoPrescale := by
  simp [State.occupy]
@[simp] theorem State.occupy_servoCount (s : State) (i : SlotIx) (fn : Handle) (rpt : Count) (ivl : Tick) :
    (s.occupy i fn rpt ivl).servoCount = s.servoCount := by
  simp [State.occupy]
@[simp] theorem State.occupy_servoOvfPf (s : State) (i : SlotIx) (fn : Handle) (rpt : Count) (ivl : Tick) :
    (s.occupy i fn rpt ivl).servoOvfPf = s.servoOvfPf := by
  simp [State.occupy]
@[simp] theorem State.occupy_servoCmpPf (s : State) (i : SlotIx) (fn : Handle) (rpt : Count) (ivl : Tick) :
    (s.occupy i fn rpt ivl).servoCmpPf = s.servoCmpPf := by
  simp [State.occupy]
@[simp] theorem State.occupy_moves (s : State) (i : SlotIx) (fn : Handle) (rpt : Count) (ivl : Tick) :
    (s.occupy i fn rpt ivl).moves = s.moves := by
  simp [State.occupy]
@[simp] theorem State.occupy_outputs (s : State) (i : SlotIx) (fn : Handle) (rpt : Count) (ivl : Tick) :
    (s.occupy i fn rpt ivl).outputs = s.outputs := by
  simp [State.occupy]
@[simp] theorem State.fireUpdate_cfg (s : State) (i : SlotIx) : (s.fireUpdate i).cfg = s.cfg := by
  unfold State.fireUpdate; split <;> [simp; (dsimp only; split <;> simp)]
@[simp] theorem State.fireUpdate_tick (s : State) (i : SlotIx) : (s.fireUpdate i).tick = s.tick := by
  unfold State.fireUpdate; split <;> [simp; (dsimp only; split <;> simp)]
@[simp] theorem State.fireUpdate_angle (s : State) (i : SlotIx) : (s.fireUpdate i).angle = s.angle := by
  unfold State.fireUpdate; split <;> [simp; (dsimp only; split <;> simp)]
@[simp] theorem State.fireUpdate_currentChannel (s : State) (i : SlotIx) : (s.fireUpdate i).currentChannel = s.currentChannel := by
  unfold State.fireUpdate; split <;> [simp; (dsimp only; split <;> simp)]
@[simp] theorem State.fireUpdate_servoRunning (s : State) (i : SlotIx) : (s.fireUpdate i).servoRunning = s.servoRunning := by
  unfold State.fireUpdate; split <;> [simp; (dsimp only; split <;> simp)]
@[simp] theorem State.fireUpdate_servoCmpV (s : State) (i : SlotIx) : (s.fireUpdate i).servoCmpV = s.servoCmpV := by
  unfold State.fireUpdate; split <;> [simp; (dsimp only; split <;> simp)]
@[simp] theorem State.fireUpdate_cmpOwed (s : State) (i : SlotIx) : (s.fireUpdate i).cmpOwed = s.cmpOwed := by
  unfold State.fireUpdate; split <;> [simp; (dsimp only; split <;> simp)]
@[simp] theorem State.fireUpdate_cmpDone (s : State) (i : SlotIx) : (s.fireUpdate i).cmpDone = s.cmpDone := by
  unfold State.fireUpdate; split <;> [simp; (dsimp only; split <;> simp)]
@[simp] theorem State.fireUpdate_line (s : State) (i : SlotIx) : (s.fireUpdate i).line = s.line := by
  unfold State.fireUpdate; split <;> [simp; (dsimp only; split <;> simp)]
@[simp] theorem State.fireUpdate_ctx (s : State) (i : SlotIx) : (s.fireUpdate i).ctx = s.ctx := by
  unfold State.fireUpdate; split <;> [simp; (dsimp only; split <;> simp)]
@[simp] theorem State.fireUpdate_gie (s : State) (i : SlotIx) : (s.fireUpdate i).gie = s.gie := by
  unfold State.fireUpdate; split <;> [simp; (dsimp only; split <;> simp)]
@[simp] theorem State.fireUpdate_tickPeriod (s : State) (i : SlotIx) : (s.fireUpdate i).tickPeriod = s.tickPeriod := by
  unfold State.fireUpdate; split <;> [simp; (dsimp only; split <;> simp)]
@[simp] theorem State.fireUpdate_tickCount (s : State) (i : SlotIx) : (s.fireUpdate i).tickCount = s.tickCount := by
  unfold State.fireUpdate; split <;> [simp; (dsimp only; split <;> simp)]
@[simp] theorem State.fireUpdate_tickPf (s : State) (i : SlotIx) : (s.fireUpdate i).tickPf = s.tickPf := by
  unfold State.fireUpdate; split <;> [simp; (dsimp only; split <;> simp)]
@[simp] theorem State.fireUpdate_servoPrescale (s : State) (i : SlotIx) : (s.fireUpdate i).servoPrescale = s.servoPrescale := by
  unfold State.fireUpdate; split <;> [simp; (dsimp only; split <;> simp)]
@[simp] theorem State.fireUpdate_servoCount (s : State) (i : SlotIx) : (s.fireUpdate i).servoCount = s.servoCount := by
  unfold State.fireUpdate; split <;> [simp; (dsimp only; split <;> simp)]
@[simp] theorem State.fireUpdate_servoOvfPf (s : State) (i : SlotIx) : (s.fireUpdate i).servoOvfPf = s.servoOvfPf := by
  unfold State.fireUpdate; split <;> [simp; (dsimp only; split <;> simp)]
@[simp] theorem State.fireUpdate_servoCmpPf (s : State) (i : SlotIx) : (s.fireUpdate i).servoCmpPf = s.servoCmpPf := by
  unfold State.fireUpdate; split <;> [simp; (dsimp only; split <;> simp)]
@[simp] theorem State.fireUpdate_moves (s : State) (i : SlotIx) : (s.fireUpdate i).moves = s.moves := by
  unfold State.fireUpdate; split <;> [simp; (dsimp only; split <;> simp)]
@[simp] theorem State.fireUpdate_outputs (s : State) (i : SlotIx) : (s.fireUpdate i).outputs = s.outputs := by
  unfold State.fireUpdate; split <;> [simp; (dsimp only; split <;> simp)]

end Sys2Proof.Machine
end

