-- ==== Sys2Proof/Laws/Ops.lean ====
section
/-!
SUPPORT. What each shared operation can do, said once: reads after writes of the tables and the mask, the scan order,
arming and disarming, the fire-count update, the handlers, the meanings (each answers a next state), and one step.
-/

namespace Sys2Proof.Machine

/-! ### The active mask -/

@[simp] theorem maskBit_maskSet (m : BitVec 8) (i j : SlotIx) :
    maskBit (maskSet m i) j = (decide (j = i) || maskBit m j) := by
  have hj := j.isLt
  by_cases h : j = i
  · subst h; simp [maskBit, maskSet, hj]
  · have : ¬ j.val = i.val := fun e => h (Fin.ext e)
    simp only [maskBit, maskSet, BitVec.getLsbD_or, BitVec.getLsbD_shiftLeft, h]
    rcases Nat.lt_or_ge j.val i.val with g | g
    · simp [g]
    · have : (1#8).getLsbD (j.val - i.val) = false := by
        simp [BitVec.getLsbD_one]; omega
      simp [this]

@[simp] theorem maskBit_maskClear (m : BitVec 8) (i j : SlotIx) :
    maskBit (maskClear m i) j = (!decide (j = i) && maskBit m j) := by
  have hj := j.isLt
  by_cases h : j = i
  · subst h; simp [maskBit, maskClear, hj]
  · have : ¬ j.val = i.val := fun e => h (Fin.ext e)
    simp only [maskBit, maskClear, BitVec.getLsbD_and, BitVec.getLsbD_not, BitVec.getLsbD_shiftLeft, h]
    rcases Nat.lt_or_ge j.val i.val with g | g
    · simp [g, hj]
    · have : (1#8).getLsbD (j.val - i.val) = false := by
        simp [BitVec.getLsbD_one]; omega
      simp [this, hj]

theorem mask_ext {m n : BitVec 8} (h : ∀ i : SlotIx, maskBit m i = maskBit n i) : m = n :=
  BitVec.eq_of_getLsbD_eq fun k hk => h ⟨k, hk⟩

theorem mask_eq_zero_iff (m : BitVec 8) : m = 0 ↔ ∀ i : SlotIx, maskBit m i = false :=
  ⟨fun h i => by subst h; simp [maskBit], fun h => mask_ext fun i => by rw [h i]; simp [maskBit]⟩

theorem maskSet_ne_zero (m : BitVec 8) (i : SlotIx) : maskSet m i ≠ 0 := fun h => by
  have := (mask_eq_zero_iff _).1 h i
  simp at this

/-! ### The scan order -/

theorem slotOrder_find?_eq_some (p : SlotIx → Bool) (i : SlotIx) :
    slotOrder.find? p = some i ↔ p i = true ∧ ∀ j : SlotIx, j < i → p j = false := by
  simp only [slotOrder, List.find?_cons, List.find?_nil]
  have key : ∀ j : SlotIx, j = 0 ∨ j = 1 ∨ j = 2 ∨ j = 3 ∨ j = 4 ∨ j = 5 ∨ j = 6 ∨ j = 7 := by decide
  constructor
  · intro h
    have : ∀ j : SlotIx, j < i → p j = false := by
      intro j hj
      by_contra hp
      rw [Bool.not_eq_false] at hp
      rcases key j with e | e | e | e | e | e | e | e <;> subst e <;> simp only [hp] at h <;>
        (repeat' split at h) <;> cases h <;> revert hj <;> decide
    refine ⟨?_, this⟩
    (repeat' split at h) <;> cases h <;> assumption
  · rintro ⟨hi, hlt⟩
    rcases key i with e | e | e | e | e | e | e | e <;> subst e <;>
      simp [hi, hlt 0, hlt 1, hlt 2, hlt 3, hlt 4, hlt 5, hlt 6]

theorem slotOrder_find?_eq_none (p : SlotIx → Bool) :
    slotOrder.find? p = none ↔ ∀ j : SlotIx, p j = false := by
  simp only [List.find?_eq_none, Bool.not_eq_true]
  have : ∀ j : SlotIx, j ∈ slotOrder := by decide
  exact ⟨fun h j => h j (this j), fun h j _ => h j⟩

/-! ### Reads after writes of the tables -/

theorem State.slot_setSlot (s : State) (i j : SlotIx) (v : Slot) :
    (s.setSlot i v).slot j = if j = i then v else s.slot j := by
  simp only [State.slot, State.setSlot_slots, Fin.getElem_fin, Vector.getElem_set, Fin.ext_iff, eq_comm]

@[simp] theorem State.slot_setSlot_self (s : State) (i : SlotIx) (v : Slot) : (s.setSlot i v).slot i = v := by
  simp [State.slot_setSlot]

theorem State.angleOf_setAngle (s : State) (c d : ChannelIx) (a : BitVec 8) :
    (s.setAngle c a).angleOf d = if d = c then a else s.angleOf d := by
  simp only [State.angleOf, State.setAngle_angle, Fin.getElem_fin, Vector.getElem_set, Fin.ext_iff, eq_comm]

theorem line_set (l : Vector Bool 10) (c d : ChannelIx) (v : Bool) :
    (l.set c.val v c.isLt)[d] = if d = c then v else l[d] := by
  simp only [Fin.getElem_fin, Vector.getElem_set, Fin.ext_iff, eq_comm]

theorem State.slot_congr {s t : State} (h : t.slots = s.slots) (i : SlotIx) : t.slot i = s.slot i := by
  simp [State.slot, h]

theorem State.active_congr {s t : State} (h : t.activeMask = s.activeMask) (i : SlotIx) : t.active i = s.active i := by
  simp [State.active, h]

theorem State.angleOf_congr {s t : State} (h : t.angle = s.angle) (c : ChannelIx) : t.angleOf c = s.angleOf c := by
  simp [State.angleOf, h]

/-! ### Operands -/

theorem channelOf_eq_some (c : BitVec 4) (ch : ChannelIx) : channelOf c = some ch ↔ ch.val = c.toNat := by
  unfold channelOf
  split
  · simp [Fin.ext_iff, eq_comm]
  · have := ch.isLt
    simp; omega

theorem channelOf_eq_none (c : BitVec 4) : channelOf c = none ↔ 10 ≤ c.toNat := by
  unfold channelOf
  split <;> simp <;> omega

theorem angleLegal_iff (a : BitVec 8) : angleLegal a = true ↔ -1 ≤ a.toInt ∧ a.toInt ≤ 100 := by
  simp [angleLegal]

theorem angleDisabled_iff (a : BitVec 8) : angleDisabled a = true ↔ a.toInt = -1 := by
  simp [angleDisabled]

theorem nextChannel_val (c : ChannelIx) : (nextChannel c).val = (c.val + 1) % 10 := by
  revert c; decide

theorem nextChannel_ne (c : ChannelIx) : nextChannel c ≠ c := by
  revert c; decide

theorem dueTime_eq_add (t i : Tick) : dueTime t i = t + i := by
  apply BitVec.eq_of_toNat_eq
  simp [dueTime, BitVec.toNat_add]

theorem isDue_iff (n t : Tick) : isDue n t = true ↔ n.toNat ≤ t.toNat := by
  simp [isDue]

theorem inNormal_iff (s : State) : inNormal s = true ↔ s.ctx = .normal := by
  simp [inNormal]

theorem gateTick_iff (s : State) : gateTick s = true ↔ s.agendaRunning = true ∧ s.gie = true ∧ s.ctx = .normal := by
  simp [gateTick, inNormal, and_assoc]

theorem gateOvf_iff (s : State) :
    gateOvf s = true ↔ s.servoRunning = true ∧ s.gie = true ∧ s.ctx = .normal ∧ s.cmpOwed = false := by
  simp [gateOvf, inNormal, and_assoc]

theorem gateCmp_iff (s : State) :
    gateCmp s = true ↔ s.servoRunning = true ∧ s.gie = true ∧ s.ctx = .normal ∧ s.cmpDone = false := by
  simp [gateCmp, inNormal, and_assoc]

/-! ### Arming and disarming -/

@[simp] theorem State.armAgendaIfIdle_agendaRunning (s : State) : s.armAgendaIfIdle.agendaRunning = true := by
  unfold State.armAgendaIfIdle; split <;> simp_all

@[simp] theorem State.armServoIfIdle_servoRunning (s : State) : s.armServoIfIdle.servoRunning = true := by
  unfold State.armServoIfIdle; split <;> simp_all

theorem State.armedGie_eq (s : State) : s.armedGie = (s.gie || inNormal s) := by
  unfold State.armedGie; cases h : inNormal s <;> simp

theorem State.armAgendaIfIdle_gie (s : State) :
    s.armAgendaIfIdle.gie = (s.gie || (!s.agendaRunning && inNormal s)) := by
  unfold State.armAgendaIfIdle; split <;> simp_all [State.armedGie_eq]

theorem State.armServoIfIdle_gie (s : State) :
    s.armServoIfIdle.gie = (s.gie || (!s.servoRunning && inNormal s)) := by
  unfold State.armServoIfIdle; split <;> simp_all [State.armedGie_eq]

@[simp] theorem State.disarmAgendaIfEmpty_agendaRunning (s : State) :
    s.disarmAgendaIfEmpty.agendaRunning = (s.agendaRunning && (s.activeMask != 0#8)) := by
  unfold State.disarmAgendaIfEmpty
  split
  · next h =>
    have h' : s.activeMask = 0#8 := h
    simp [h']
  · next h =>
    have h' : ¬s.activeMask = 0#8 := h
    simp [h']

@[simp] theorem State.deactivate_activeMask (s : State) (i : SlotIx) :
    (s.deactivate i).activeMask = maskClear s.activeMask i := by
  simp [State.deactivate]

@[simp] theorem State.deactivate_agendaRunning (s : State) (i : SlotIx) :
    (s.deactivate i).agendaRunning = (s.agendaRunning && (maskClear s.activeMask i != 0#8)) :=
  State.disarmAgendaIfEmpty_agendaRunning _

@[simp] theorem State.occupy_slots (s : State) (i : SlotIx) (fn : Handle) (rpt : Count) (ivl : Tick) :
    (s.occupy i fn rpt ivl).slots = s.slots.set i.val (newSlot s.tick fn rpt ivl) i.isLt := by
  simp [State.occupy]

@[simp] theorem State.occupy_activeMask (s : State) (i : SlotIx) (fn : Handle) (rpt : Count) (ivl : Tick) :
    (s.occupy i fn rpt ivl).activeMask = maskSet s.activeMask i := by
  simp [State.occupy]

@[simp] theorem State.occupy_agendaRunning (s : State) (i : SlotIx) (fn : Handle) (rpt : Count) (ivl : Tick) :
    (s.occupy i fn rpt ivl).agendaRunning = true := by
  simp [State.occupy]

theorem State.occupy_gie (s : State) (i : SlotIx) (fn : Handle) (rpt : Count) (ivl : Tick) :
    (s.occupy i fn rpt ivl).gie = (s.gie || (!s.agendaRunning && inNormal s)) := by
  exact State.armAgendaIfIdle_gie _

/-! ### Firing -/

/-- The fire-count update (R135) is one of three: a slot that fires forever advances, a counting slot advances, a
counting slot is exhausted. -/
theorem State.fireUpdate_cases (s : State) (i : SlotIx) :
    ((s.slot i).repeatLimit = 0 ∧
      s.fireUpdate i = s.setSlot i ((s.slot i).advance s.tick)) ∨
    ((s.slot i).repeatLimit ≠ 0 ∧ (s.slot i).firedCount + 1 ≠ (s.slot i).repeatLimit ∧
      s.fireUpdate i = s.setSlot i (Slot.advance { s.slot i with firedCount := (s.slot i).firedCount + 1 } s.tick)) ∨
    ((s.slot i).repeatLimit ≠ 0 ∧ (s.slot i).firedCount + 1 = (s.slot i).repeatLimit ∧
      s.fireUpdate i = (s.setSlot i { s.slot i with firedCount := (s.slot i).firedCount + 1 }).deactivate i) := by
  unfold State.fireUpdate
  by_cases h : (s.slot i).repeatLimit = 0
  · exact .inl ⟨h, if_pos h⟩
  · right
    rw [if_neg h]
    by_cases g : (s.slot i).firedCount + 1 = (s.slot i).repeatLimit
    · exact .inr ⟨h, g, if_pos g⟩
    · exact .inl ⟨h, g, if_neg g⟩

theorem State.scan_eq_some (s : State) (i : SlotIx) :
    s.scan = some i ↔ s.eligible i = true ∧ ∀ j : SlotIx, j < i → s.eligible j = false :=
  slotOrder_find?_eq_some _ _

theorem State.scan_eq_none (s : State) : s.scan = none ↔ ∀ j : SlotIx, s.eligible j = false :=
  slotOrder_find?_eq_none _

theorem State.eligible_iff (s : State) (i : SlotIx) : s.eligible i = true ↔ DueAt s s.tick i := by
  unfold State.eligible DueAt
  rw [Bool.and_eq_true, Bool.and_eq_true, Bool.or_eq_true, isDue_iff, decide_eq_true_iff, decide_eq_true_iff, and_assoc]
  rfl

/-- The tick handler (R133) either fires no slot or fires the first eligible one. -/
theorem State.tickHandler_cases (s : State) :
    (s.countTick.scan = none ∧ s.tickHandler = s.countTick) ∨
    (∃ i, s.countTick.scan = some i ∧ s.tickHandler = s.countTick.fireSlot i) := by
  unfold State.tickHandler
  cases h : s.countTick.scan with
  | none => exact .inl ⟨rfl, rfl⟩
  | some i => exact .inr ⟨i, rfl, rfl⟩

/-! ### Meanings: each answers a next state -/

theorem execRegister_cases (fn : Handle) (rpt : Count) (ivl : Tick) (s : State) :
    (ivl = 0 ∧ execRegister fn rpt ivl s = .next (s.respond .invalidInterval 0)) ∨
    (ivl ≠ 0 ∧ lowestFree s.activeMask = none ∧ execRegister fn rpt ivl s = .next (s.respond .schedulerFull 0)) ∨
    (∃ i, ivl ≠ 0 ∧ lowestFree s.activeMask = some i ∧
      execRegister fn rpt ivl s = .next ((s.occupy i fn rpt ivl).respond .ok (slotValue i))) := by
  unfold execRegister
  by_cases h : ivl = 0
  · exact .inl ⟨h, by rw [if_pos h]⟩
  · right
    rw [if_neg h]
    cases g : lowestFree s.activeMask with
    | none => exact .inl ⟨h, rfl, rfl⟩
    | some i => exact .inr ⟨i, h, rfl, rfl⟩

theorem execSetAngle_cases (c : BitVec 4) (a : BitVec 8) (s : State) :
    (channelOf c = none ∧ execSetAngle c a s = .next (s.respond .invalidChannel 0)) ∨
    (∃ ch, channelOf c = some ch ∧ angleLegal a = false ∧ execSetAngle c a s = .next (s.respond .invalidAngle 0)) ∨
    (∃ ch, channelOf c = some ch ∧ angleLegal a = true ∧
      execSetAngle c a s = .next (((s.setAngle ch a).armServoIfIdle).respond .ok 0)) := by
  cases h : channelOf c with
  | none => exact .inl ⟨rfl, by simp [execSetAngle, h]⟩
  | some ch =>
    cases g : angleLegal a with
    | false => exact .inr (.inl ⟨ch, rfl, rfl, by simp [execSetAngle, h, g]⟩)
    | true => exact .inr (.inr ⟨ch, rfl, rfl, by simp [execSetAngle, h, g]⟩)

theorem exec_answers_next (i : Instr) (s : State) : ∃ t, exec i s = .next t := by
  cases i <;> exact ⟨_, rfl⟩

/-! ### Launch -/

@[simp] theorem acceptedConfig_lineMap (r : RawConfig) (c : ChannelIx) :
    (acceptedConfig r).lineMap[c] =
      { port := portOf r.lineMap[c].1, pin := ⟨r.lineMap[c].2 % 8, Nat.mod_lt _ (by decide)⟩ } := by
  simp [acceptedConfig]

/-! ### One step -/

/-- Everything a step that answers a next state can have been. -/
theorem step_cases {s t : State} (h : step s = .next t) :
    (s.moves = [] ∧ t = s) ∨
    (∃ x rest i, s.moves = .wire x :: rest ∧ decode x = .ok i ∧ exec i { s with moves := rest } = .next t) ∨
    (∃ w rest r, s.moves = .wire (.command w) :: rest ∧ decode (.command w) = .error r ∧
      t = State.illegalCommand { s with moves := rest }) ∨
    (∃ b rest, s.moves = .setGie b :: rest ∧ s.ctx = .normal ∧ t = { s with moves := rest, gie := b }) ∨
    (∃ m rest, s.moves = .timer m :: rest ∧ t = State.timerMove { s with moves := rest } m) := by
  unfold step nextMove at h
  split at h
  · next hm => exact .inl ⟨hm, by cases h; rfl⟩
  · next m rest hm =>
    right
    cases m with
    | wire x =>
      cases hd : decode x with
      | ok i => exact .inl ⟨x, rest, i, hm, hd, by simpa [takeMove, takeWire, hd] using h⟩
      | error r =>
        right; left
        cases x with
        | command w =>
          refine ⟨w, rest, r, hm, hd, ?_⟩
          cases r with
          | reservedOp o => simpa [takeMove, takeWire, hd, rejected] using h.symm
          | reservedBits o => simpa [takeMove, takeWire, hd, rejected] using h.symm
          | noSuchEvent c =>
            exfalso
            simp only [decode, decodeCommand] at hd
            (repeat' split at hd) <;> cases hd
        | event c =>
          exfalso
          simp only [decode, decodeEvent] at hd
          (repeat' split at hd) <;> cases hd
          simp_all [takeMove, takeWire, rejected, decode, decodeEvent]
    | setGie b =>
      right; right; left
      by_cases hc : s.ctx = .normal
      · refine ⟨b, rest, hm, hc, ?_⟩
        simp only [takeMove, State.setGie, inNormal, hc, decide_true, if_true] at h
        cases h
        rw [hc]
      · simp [takeMove, State.setGie, inNormal, hc] at h
    | timer m => exact .inr (.inr (.inr ⟨m, rest, hm, by cases h; rfl⟩))

@[simp] theorem runSteps_zero (s : State) : runSteps 0 s = .next s := rfl

theorem runSteps_succ (k : Nat) (s : State) :
    runSteps (k + 1) s =
      match step s with
      | .next t => runSteps k t
      | .fault r => .fault r
      | .refused r => .refused r := rfl

theorem coreRun_succ (M : Host.Core) (k : Nat) (s : M.State) :
    M.run (k + 1) s =
      match M.step s with
      | .next t => M.run k t
      | .fault r => .fault r
      | .refused r => .refused r := by
  cases h : M.step s <;> simp [Host.Core.run, h]

/-- `runSteps` is the host's run of the machine. -/
theorem runSteps_eq_core_run (k : Nat) (s : State) : runSteps k s = Host.Core.run Sys2Proof.core k s := by
  induction k generalizing s with
  | zero => rfl
  | succ k ih =>
    refine (runSteps_succ k s).trans (Eq.trans ?_ (coreRun_succ Sys2Proof.core k s).symm)
    cases h : step s with
    | next t =>
      have h' : Sys2Proof.core.step s = .next t := h
      rw [h']
      exact ih t
    | fault r => cases r
    | refused r =>
      have h' : Sys2Proof.core.step s = .refused r := h
      rw [h']
      rfl

/-- A run of one more step that answers a next state goes through a first step that does. -/
theorem runSteps_succ_next {k : Nat} {s t : State} (h : runSteps (k + 1) s = .next t) :
    ∃ u, step s = .next u ∧ runSteps k u = .next t := by
  rw [runSteps_succ] at h
  split at h
  · next u hu => exact ⟨u, hu, h⟩
  · cases h
  · cases h

end Sys2Proof.Machine
end

