-- ==== Sys2Proof/Laws/PerInstr.lean ====
section
/-!
SUPPORT. The family TableRow: the encoding of an instruction lies in the row that spec/opcode_table.json gives its
mnemonic (its bits under the row's mask are the row's match; an event's code is the row's).
-/

namespace Sys2Proof.Laws.TableRow

/-- The row of a command's mnemonic holds the word; the code of an event is its row's. -/
def Statement (i : Instr) : Prop :=
  match encode i with
  | .command w => ∃ r ∈ commandRows, r.mnemonic = i.mnemonic ∧ w &&& r.mask = r.pattern
  | .event code => (i.mnemonic, code) ∈ [("TICK_IRQ", 0x01#8), ("SERVO_OVF_IRQ", 0x02#8), ("SERVO_CMP_IRQ", 0x03#8)]

theorem register (fn : Handle) (rpt : Count) (ivl : Tick) : Statement (.register fn rpt ivl) := by
  refine ⟨⟨"REGISTER", 0xF0000F0000000000, 0x1000000000000000⟩, by simp [commandRows], rfl, ?_⟩
  apply BitVec.eq_of_getLsbD_eq
  intro k hk
  simp only [BitVec.getLsbD_and, BitVec.getLsbD_append]
  interval_cases k <;> simp

theorem cancel (s : SlotIx) : Statement (.cancel s) := by
  refine ⟨⟨"CANCEL", 0xFFFFFFFFFFFFFFF8, 0x2000000000000000⟩, by simp [commandRows], rfl, ?_⟩
  revert s
  decide

theorem setAngle (c : BitVec 4) (a : BitVec 8) : Statement (.setAngle c a) := by
  refine ⟨⟨"SET_ANGLE", 0xFFFFFFFFFFFFF000, 0x3000000000000000⟩, by simp [commandRows], rfl, ?_⟩
  apply BitVec.eq_of_getLsbD_eq
  intro k hk
  simp only [BitVec.getLsbD_and, BitVec.getLsbD_append]
  interval_cases k <;> simp

theorem readTick : Statement .readTick :=
  ⟨⟨"READ_TICK", 0xFFFFFFFFFFFFFFFF, 0x4000000000000000⟩, by simp [commandRows], rfl, by decide⟩

theorem cbReturn : Statement .cbReturn :=
  ⟨⟨"CB_RETURN", 0xFFFFFFFFFFFFFFFF, 0x5000000000000000⟩, by simp [commandRows], rfl, by decide⟩

theorem tickIrq : Statement .tickIrq := by
  simp [Statement, encode, Instr.mnemonic]

theorem servoOvfIrq : Statement .servoOvfIrq := by
  simp [Statement, encode, Instr.mnemonic]

theorem servoCmpIrq : Statement .servoCmpIrq := by
  simp [Statement, encode, Instr.mnemonic]

end Sys2Proof.Laws.TableRow
end

