-- ==== Sys2Proof/Tests/Slice0.lean ====
section
/-!
SUPPORT. Tests. Expected values are the worked examples, vectors and programs of 95_test_vectors.md (W, V and P
numbers) or are read off the format tables of 30_encoding.md. Then, for each obligation with hypotheses, a named
witness: a concrete state and operands that meet them together.
-/

namespace Sys2Proof.Tests

open Sys2Proof Sys2Proof.Machine

/-! ### Small states -/

/-- The example line map of 95_test_vectors. -/
def exampleMap : Vector (Char × Nat) 10 :=
  #v[('C', 0), ('C', 1), ('C', 2), ('C', 3), ('C', 4), ('C', 5), ('C', 6), ('C', 7), ('D', 0), ('D', 1)]

def rawConfig (tick : Tick) (channel : Nat) (map : Vector (Char × Nat) 10) : RawConfig :=
  { tickInit := tick, initChannel := channel, lineMap := map, tickPeriod := 1000, servoPrescale := 8, servoPreload := 60,
    servoCycle := 600 }

def config (tick : Tick) (channel : ChannelIx) : Config :=
  { tickInit := tick, initChannel := channel,
    lineMap := #v[⟨.C, 0⟩, ⟨.C, 1⟩, ⟨.C, 2⟩, ⟨.C, 3⟩, ⟨.C, 4⟩, ⟨.C, 5⟩, ⟨.C, 6⟩, ⟨.C, 7⟩, ⟨.D, 0⟩, ⟨.D, 1⟩],
    tickPeriod := 1000, servoPrescale := 8, servoPreload := 60, servoCycle := 600 }

/-- A draw of the values R57 leaves unspecified, all of them nonzero. -/
def draw : Draw :=
  { slots := Vector.replicate 8 ⟨0xDEAD, 5, 3, 7, 2⟩, servoCmpV := 0x5A, tickPeriod := 11, tickCount := 12, tickPf := true,
    servoPrescale := 13, servoCount := 14, servoOvfPf := true, servoCmpPf := true }

/-- Reset(T, C) of 95_test_vectors. -/
def resetAt (tick : Tick) (channel : ChannelIx) : State := State.resetWith (config tick channel) draw

def cmd (w : CmdWord) : Move := .wire (.command w)
def ev (code : EventCode) : Move := .wire (.event code)

/-- The agents offer these moves. -/
def offer (s : State) (ms : List Move) : State := { s with moves := ms }

/-- The state after one step that offers `m`; the state itself where the step answers no next state. -/
def after (s : State) (m : Move) : State :=
  match step (offer s [m]) with
  | .next t => t
  | .fault _ => s
  | .refused _ => s

/-- A view of the next state of one step that offers `m`. -/
def view {α : Type} (s : State) (m : Move) (f : State → α) : Option α :=
  match step (offer s [m]) with
  | .next t => some (f t)
  | .fault _ => none
  | .refused _ => none

/-- The last output. -/
def last (s : State) : Option Output := s.outputs.getLast?

/-- Mid-life: the agenda runs with slots 0 and 1 as in V35, interrupts enabled, normal context. -/
def v35 : State :=
  { resetAt 101 0 with
    slots := (draw.slots.set 0 ⟨1, 2, 0, 0, 102⟩).set 1 ⟨2, 1, 3, 1, 102⟩
    activeMask := 0x03, agendaRunning := true, gie := true }

/-- One slot as in V33 (fired count 0, due 3) or V34 (fired count 1, due 6). -/
def oneSlot (tick : Tick) (fc : Count) (due : Tick) : State :=
  { resetAt tick 0 with
    slots := draw.slots.set 0 ⟨0x0A0A, 3, 2, fc, due⟩, activeMask := 0x01, agendaRunning := true, gie := true }

/-- All eight slots active (P4 after its eighth line). -/
def fullTable : State :=
  { resetAt 50 0 with
    slots := Vector.ofFn fun k => ⟨BitVec.ofNat 16 (0x0100 + k.val), 10, 0, 0, 60⟩
    activeMask := 0xFF, agendaRunning := true, gie := true }

/-- After V43: SET_ANGLE 0, 0 from Reset(0, 9). -/
def v43 : State := after (resetAt 0 9) (cmd 0x3000000000000000)
/-- After V55: the overflow that starts channel 0's pulse. -/
def v55 : State := after v43 (ev 2)
/-- After V57: its compare match. -/
def v57 : State := after v55 (ev 3)
/-- After V12: REGISTER 0x0A0A, 3, 2 from Reset(0, 0). -/
def v12 : State := after (resetAt 0 0) (cmd 0x10A0A00200000003)

/-! ### Words of the format tables decode (R92 to R96, R106) -/

theorem test_decode_register :
    decodeTableWord 64 (0x1 <<< 60 ||| 0xBEEF <<< 44 ||| 0x7F <<< 32 ||| 0x12345678) =
      some (.register 0xBEEF 0x7F 0x12345678) := by decide
theorem test_decode_cancel : decodeTableWord 64 (0x2 <<< 60 ||| 0b110) = some (.cancel 6) := by decide
theorem test_decode_set_angle :
    decodeTableWord 64 (0x3 <<< 60 ||| 0b0101 <<< 8 ||| 0b10000000) = some (.setAngle 5 0x80) := by decide
theorem test_decode_read_tick : decodeTableWord 64 (0x4 <<< 60) = some .readTick := by decide
theorem test_decode_cb_return : decodeTableWord 64 (0x5 <<< 60) = some .cbReturn := by decide
theorem test_decode_events :
    decodeTableWord 8 0x01 = some .tickIrq ∧ decodeTableWord 8 0x02 = some .servoOvfIrq ∧
      decodeTableWord 8 0x03 = some .servoCmpIrq := by decide
/-- R98, R99: V1, V2, V3, V4, V6, V7, V8, V9, V10, V11. -/
theorem test_decode_refuses :
    ∀ w ∈ [0x0000000000000000, 0x6000000000000000, 0xF000000000000000, 0x1000010000000005, 0x2000000000000008,
      0x2800000000000000, 0x3000000000001000, 0x3000000000001C65, 0x4000000000000001, 0x5000000000000010],
      decodeTableWord 64 w = none := by decide
/-- R106: the codes beside the three. -/
theorem test_decode_refuses_codes : ∀ c ∈ [0x00, 0x04, 0xFF], decodeTableWord 8 c = none := by decide
/-- No two rows of the command table share a word: where both masks look, the patterns differ. -/
theorem test_rows_disjoint :
    commandRows.Pairwise fun a b => a.pattern &&& (a.mask &&& b.mask) ≠ b.pattern &&& (a.mask &&& b.mask) := by decide
/-- The rows' mnemonics are those of the instructions their patterns decode to. -/
theorem test_rows_mnemonics :
    ∀ r ∈ commandRows, (decodeTableWord 64 r.pattern.toNat).map Instr.mnemonic = some r.mnemonic := by decide
/-- The words of P1 to P3, assembled (encoding helpers of 95_test_vectors). -/
theorem test_assemble :
    ((Asm.register 0x0A0A 3 2).assemble.map encode = some (.command 0x10A0A00200000003)) ∧
      ((Asm.cancel 5).assemble.map encode = some (.command 0x2000000000000005)) ∧
      ((Asm.setAngle 3 (-2)).assemble.map encode = some (.command 0x30000000000003FE)) ∧
      ((Asm.setAngle 15 (-128)).assemble.map encode = some (.command 0x3000000000000F80)) ∧
      (Asm.readTick.assemble.map encode = some (.command 0x4000000000000000)) ∧
      (Asm.cbReturn.assemble.map encode = some (.command 0x5000000000000000)) := by decide

/-! ### Well-formedness: each check refuses an ill-formed term (R8, R108) -/

/-- V69. -/
theorem test_ill_formed_channel :
    (rawConfig 0 10 exampleMap).initChannelOk = false ∧
      launch (rawConfig 0 10 exampleMap) draw = .refused (.configRefused .initChannelOutOfRange) := ⟨by decide, rfl⟩
/-- V70. -/
theorem test_ill_formed_map :
    (rawConfig 0 0 ((exampleMap.set 3 ('B', 2)).set 4 ('B', 2))).lineMapInjective = false ∧
      launch (rawConfig 0 0 ((exampleMap.set 3 ('B', 2)).set 4 ('B', 2))) draw =
        .refused (.configRefused .lineMapNotInjective) := ⟨by decide, rfl⟩
/-- V71. -/
theorem test_ill_formed_port :
    (rawConfig 0 0 (exampleMap.set 0 ('E', 0))).portsOk = false ∧
      launch (rawConfig 0 0 (exampleMap.set 0 ('E', 0))) draw = .refused (.configRefused .portOutOfRange) := ⟨by decide, rfl⟩
/-- R8: pin 8 does not exist. -/
theorem test_ill_formed_pin :
    (rawConfig 0 0 (exampleMap.set 9 ('D', 8))).pinsOk = false ∧
      launch (rawConfig 0 0 (exampleMap.set 9 ('D', 8))) draw = .refused (.configRefused .pinOutOfRange) := ⟨by decide, rfl⟩
/-- V72. -/
theorem test_well_formed_config :
    (rawConfig 0 9 exampleMap).wellFormed = true ∧ launch (rawConfig 0 9 exampleMap) draw = .next (resetAt 0 9) :=
  ⟨by decide, rfl⟩
/-- An accepted configuration whose map is not injective is ill formed. -/
theorem test_ill_formed_accepted_config :
    ¬{ config 0 0 with lineMap := Vector.replicate 10 ⟨.A, 0⟩ : Config }.WellFormed := by decide
/-- R108: one operand past each field's range. -/
theorem test_ill_formed_lines :
    ∀ a ∈ [Asm.register 0x10000 1 0, .register 0 0x100000000 0, .register 0 1 256, .cancel 8, .setAngle 16 0,
      .setAngle 0 128, .setAngle 0 (-129), .periodic 0x10000 1, .periodic 0 0x100000000, .oneshot 0x10000 1,
      .oneshot 0 0x100000000, .servoOff 16], a.wellFormed = false ∧ a.assemble = none := by decide

/-! ### One step of each instruction -/

/-- V12. -/
theorem test_register_arms :
    view (resetAt 0 0) (cmd 0x10A0A00200000003)
        (fun t => (t.slots[0], t.activeMask, t.agendaRunning, t.gie, last t)) =
      some (⟨0x0A0A, 3, 2, 0, 3⟩, 0x01, true, true, some (.response 0)) := by decide
/-- V14: the due time wraps to tick - 1. -/
theorem test_register_wraps :
    view (resetAt 7 0) (cmd 0x1FFFF0FFFFFFFFFF) (fun t => t.slots[0]) =
      some ⟨0xFFFF, 0xFFFFFFFF, 255, 0, 6⟩ := by decide
/-- V21: `gie` stays 1. -/
theorem test_cancel_disarms :
    view v12 (cmd 0x2000000000000000) (fun t => (t.activeMask, t.agendaRunning, t.gie, last t)) =
      some (0x00, false, true, some (.response 0)) := by decide
/-- P4 line 10. -/
theorem test_cancel_leaves_others :
    view fullTable (cmd 0x2000000000000003) (fun t => (t.activeMask, t.agendaRunning)) = some (0xF7, true) := by decide
/-- V26. -/
theorem test_read_tick :
    view (resetAt 0xFFFFFFFF 0) (cmd 0x4000000000000000) last = some (some (.response 0x00000000FFFFFFFF)) := by decide
/-- V29. -/
theorem test_cb_return_in_normal :
    view (resetAt 0 0) (cmd 0x5000000000000000) (fun t => (t.ctx, last t)) =
      some (.normal, some (.response 0x6000000000000000)) := by decide
/-- V30. -/
theorem test_cb_return_in_callback :
    view { oneSlot 3 1 6 with ctx := .callback 0 } (cmd 0x5000000000000000) (fun t => (t.ctx, t.gie, last t)) =
      some (.normal, true, some (.response 0)) := by decide
/-- V34: the last firing disarms the agenda; the dead due time stays. -/
theorem test_tick_exhausts :
    view (oneSlot 5 1 6) (ev 1) (fun t => ((t.tick, t.slots[0], t.activeMask), t.agendaRunning, t.ctx, t.outputs)) =
      some ((6, ⟨0x0A0A, 3, 2, 2, 6⟩, 0x00), false, .callback 0, [.fire 0 0x0A0A]) := by decide
/-- V35: of two eligible slots only the lower fires. -/
theorem test_tick_one_per_tick :
    view v35 (ev 1) (fun t => (t.slots[0].nextDue, t.slots[1], t.activeMask, t.outputs)) =
      some (104, ⟨2, 1, 3, 1, 102⟩, 0x03, [.fire 0 1]) := by decide
/-- V46: an angle of -1 arms all the same. -/
theorem test_set_angle_off_arms :
    view (resetAt 0 9) (cmd 0x30000000000000FF) (fun t => (t.angle[0], t.servoRunning, t.gie, last t)) =
      some (0xFF, true, true, some (.response 0)) := by decide
/-- V53: the channel is checked first; nothing is armed. -/
theorem test_set_angle_order :
    view (resetAt 0 9) (cmd 0x3000000000000C65) (fun t => (t.angle, t.servoRunning, last t)) =
      some (Vector.replicate 10 0xFF, false, some (.response 0x2000000000000000)) := by decide
/-- V55. -/
theorem test_ovf_pulse :
    view v43 (ev 2) (fun t => ((t.currentChannel, t.cmpDone, t.servoCmpV), t.line[0], t.cmpOwed, last t)) =
      some ((0, false, 150), true, true, some (.gpioWrite .C 0 true)) := by decide
/-- V59: a disabled channel after channel 0; the compare register keeps its value. -/
theorem test_ovf_disabled :
    view v57 (ev 2) (fun t => (t.currentChannel, t.cmpDone, t.servoCmpV, t.line, t.outputs == v57.outputs)) =
      some (1, false, 150, Vector.replicate 10 false, true) := by decide
/-- V57. -/
theorem test_cmp_ends_pulse :
    view v55 (ev 3) (fun t => (t.line[0], t.cmpOwed, t.cmpDone, last t)) =
      some (false, false, true, some (.gpioWrite .C 0 false)) := by decide
/-- V61: a compare match before the first overflow. -/
theorem test_cmp_before_overflow :
    view (after (resetAt 0 9) (cmd 0x3000000000000264)) (ev 3) (fun t => (t.line[9], t.cmpDone, last t)) =
      some (false, true, some (.gpioWrite .D 1 false)) := by decide
/-- V66, R206. -/
theorem test_set_gie :
    view v12 (.setGie false) (fun t => (t.gie, t.outputs == v12.outputs, gateTick t)) = some (false, true, false) := by
  decide
/-- R101 codes through the steps: V15, V16. -/
theorem test_register_full :
    (view fullTable (cmd 0x101080000000000A) last, view fullTable (cmd 0x1001000000000000) last) =
      (some (some (.response 0x1000000000000000)), some (some (.response 0x4000000000000000))) := by decide
/-- A word of each table row, placed after reset, is run by the very next step. -/
theorem test_placed_instruction_runs :
    (step (State.reset.withFetchWord 64 0x4000000000000000) =
        .next (State.reset.answered (respWord .ok State.reset.tick))) ∧
      step ((resetAt 0 9).withFetchWord 8 3) =
        .next { State.cmpHandler ((resetAt 0 9).openGate 3) with moves := [] } := ⟨rfl, rfl⟩

/-! ### Witnesses: steps, decoding, encoding -/

theorem test_witness_StepRunsTheNextInstruction :
    (offer v12 [ev 1]).moves = .wire (.event 1) :: [] ∧ decode (.event 1) = .ok .tickIrq := ⟨rfl, rfl⟩
theorem test_witness_StepWaitsWithoutAMove : v12.moves = [] := by decide
theorem test_witness_DecoderFollowsTheRule :
    (offer v12 [cmd 0]).moves = .wire (.command 0) :: [] ∧ decode (.command 0) = .error (.reservedOp 0) := ⟨rfl, rfl⟩
/-- The boundary opcodes 0, 6 and 15: V1, V2, V3. -/
theorem test_witness_ReservedOpcodesAnswerIllegal :
    (0x0000000000000000#64).extractLsb' 60 4 = 0 ∧ 6 ≤ ((0x6000000000000000#64).extractLsb' 60 4).toNat ∧
      6 ≤ ((0xF000000000000000#64).extractLsb' 60 4).toNat := by decide
/-- One word for each opcode: V4, V6 (lowest reserved bit), V7 (highest), V8, V10, V11. -/
theorem test_witness_ReservedBitsAnswerIllegal :
    ((0x1000010000000005#64).extractLsb' 60 4 = 1 ∧ (0x1000010000000005#64).extractLsb' 40 4 ≠ 0) ∧
    ((0x2000000000000008#64).extractLsb' 60 4 = 2 ∧ (0x2000000000000008#64).extractLsb' 3 57 ≠ 0) ∧
    ((0x2800000000000000#64).extractLsb' 60 4 = 2 ∧ (0x2800000000000000#64).extractLsb' 3 57 ≠ 0) ∧
    ((0x3000000000001000#64).extractLsb' 60 4 = 3 ∧ (0x3000000000001000#64).extractLsb' 12 48 ≠ 0) ∧
    ((0x4000000000000001#64).extractLsb' 60 4 = 4 ∧ (0x4000000000000001#64).extractLsb' 0 60 ≠ 0) ∧
    ((0x5000000000000010#64).extractLsb' 60 4 = 5 ∧ (0x5000000000000010#64).extractLsb' 0 60 ≠ 0) := by decide
theorem test_witness_EncodeInvertsDecode : decode (.command 0x2000000000000007) = .ok (.cancel 7) := by rfl
theorem test_witness_EventCodesNameThreeEvents :
    (∀ code ∈ [0x00#8, 0x04#8, 0xFF#8], code ≠ 0x01 ∧ code ≠ 0x02 ∧ code ≠ 0x03) ∧
      decode (.command 0x4000000000000000) = .ok .readTick := ⟨by decide, rfl⟩
/-- Both ends of each operand's range, and the first value past it. -/
theorem test_witness_AssembledWordsAreTheFormats :
    (Asm.register 0xFFFF 0xFFFFFFFF 255).assemble = some (.register 0xFFFF 255 0xFFFFFFFF) ∧
    (Asm.register 0 0 0).assemble = some (.register 0 0 0) ∧ (Asm.register 0x10000 0 0).assemble = none ∧
    (Asm.cancel 7).assemble = some (.cancel 7) ∧ (Asm.cancel 8).assemble = none ∧
    (Asm.setAngle 15 127).assemble = some (.setAngle 15 127) ∧ (Asm.setAngle 0 (-128)).assemble = some (.setAngle 0 0x80) ∧
    (Asm.setAngle 16 0).assemble = none ∧ (Asm.setAngle 0 128).assemble = none := by decide

/-! ### Witnesses: responses -/

theorem test_witness_EveryCommandAnswersOnce :
    (offer v12 [cmd 0x6000000000000000]).moves = .wire (.command 0x6000000000000000) :: [] := rfl
/-- A step answered with each status, opcode by opcode. -/
theorem test_witness_StatusesOfEachCommand :
    (view (resetAt 7 0) (cmd 0x1FFFF0FFFFFFFFFF) State.outputs = some [.response 0]) ∧
    (view (resetAt 0 0) (cmd 0x2000000000000005) State.outputs = some [.response 0]) ∧
    (view (resetAt 0 9) (cmd 0x3000000000000C05) State.outputs = some [.response 0x2000000000000000]) ∧
    (view (resetAt 0 9) (cmd 0x3000000000000165) State.outputs = some [.response 0x3000000000000000]) ∧
    (view (resetAt 7 0) (cmd 0x4000000000000000) State.outputs = some [.response 7]) ∧
    (view (resetAt 0 0) (cmd 0x5000000000000000) State.outputs = some [.response 0x6000000000000000]) ∧
    (view (resetAt 0 0) (cmd 0xF000000000000000) State.outputs = some [.response 0x5000000000000000]) := by decide

/-! ### Witnesses: REGISTER -/

/-- Slot 0 of an empty table, slot 7 of a table with seven active slots, a hole in the middle (V17). -/
theorem test_witness_RegisterTakesTheLowestFreeSlot :
    ((3 : Tick) ≠ 0 ∧ (resetAt 0 0).activeMask.getLsbD (0 : SlotIx).val = false) ∧
    (({ fullTable with activeMask := 0x7F } : State).activeMask.getLsbD (7 : SlotIx).val = false ∧
      ∀ j : SlotIx, j < 7 → ({ fullTable with activeMask := 0x7F } : State).activeMask.getLsbD j.val = true) ∧
    (({ fullTable with activeMask := 0xF7 } : State).activeMask.getLsbD (3 : SlotIx).val = false ∧
      ∀ j : SlotIx, j < 3 → ({ fullTable with activeMask := 0xF7 } : State).activeMask.getLsbD j.val = true) := by decide
theorem test_witness_RegisterRejections : (10 : Tick) ≠ 0 ∧ fullTable.activeMask = 0xFF := by decide
theorem test_witness_NinthRegistrationFails : fullTable.activeMask = 0xFF ∧ (1 : Tick) ≠ 0 := by decide
/-- V19, and the least sum that wraps. -/
theorem test_witness_WrappedDueTimeIsDueAtOnce :
    ((5 : Tick) ≠ 0 ∧ 2 ^ 32 ≤ (resetAt 0xFFFFFFFE 0).tick.toNat + (5 : Tick).toNat ∧
        (resetAt 0xFFFFFFFE 0).tick ≠ 0xFFFFFFFF ∧ (resetAt 0xFFFFFFFE 0).activeMask.getLsbD (0 : SlotIx).val = false) ∧
      2 ^ 32 ≤ (resetAt 0xFFFFFFFE 0).tick.toNat + (2 : Tick).toNat ∧
      exec (.register 0x0010 0 5) (resetAt 0xFFFFFFFE 0) =
        .next (after (resetAt 0xFFFFFFFE 0) (cmd 0x1001000000000005)) := ⟨by decide, by decide, rfl⟩

/-! ### Witnesses: CANCEL, CB_RETURN -/

theorem test_witness_CancelTwiceIsCancelOnce :
    exec (.cancel 0) v12 = .next (after v12 (cmd 0x2000000000000000)) ∧
      exec (.cancel 3) (resetAt 0 0) = .next (after (resetAt 0 0) (cmd 0x2000000000000003)) := ⟨rfl, rfl⟩
theorem test_witness_CbReturnLeavesTheCallback :
    (after (oneSlot 2 0 3) (ev 1)).ctx = .callback 0 ∧ v12.ctx = .normal := by decide

/-! ### Witnesses: TICK_IRQ -/

/-- V32, and a tick one before the due time. -/
theorem test_witness_TickWithNoDueSlotOnlyCounts :
    (oneSlot 1 0 3).agendaRunning = true ∧ (oneSlot 1 0 3).gie = true ∧ (oneSlot 1 0 3).ctx = .normal ∧
      ∀ i : SlotIx, (State.countTick (oneSlot 1 0 3)).eligible i = false := by decide
theorem test_witness_TickWithNoDueSlotOnlyCounts_due :
    ∀ i : SlotIx, ¬DueAt (oneSlot 1 0 3) (BitVec.ofNat 32 ((oneSlot 1 0 3).tick.toNat + 1)) i := by
  unfold DueAt; decide
/-- V35 (fires forever), V33 (counts), V34 (exhausted). -/
theorem test_witness_TickFiresTheLowestDueSlot :
    (DueAt v35 102 0 ∧ v35.slots[0].repeatLimit = 0) ∧
    (DueAt (oneSlot 2 0 3) 3 0 ∧ (oneSlot 2 0 3).slots[0].firedCount.toNat + 1 < (oneSlot 2 0 3).slots[0].repeatLimit.toNat) ∧
    (DueAt (oneSlot 5 1 6) 6 0 ∧
      (oneSlot 5 1 6).slots[0].firedCount.toNat + 1 = (oneSlot 5 1 6).slots[0].repeatLimit.toNat) ∧
    gateTick v35 = true ∧ gateTick (oneSlot 2 0 3) = true ∧ gateTick (oneSlot 5 1 6) = true := by
  unfold DueAt; decide
theorem test_witness_DelayedSlotsStayDue :
    exec .tickIrq v35 = .next (after v35 (ev 1)) ∧ (after v35 (ev 1)).outputs = v35.outputs ++ [.fire 0 1] ∧
      DueAt v35 (after v35 (ev 1)).tick 1 := ⟨rfl, by decide, by unfold DueAt; decide⟩

/-! ### Witnesses: SET_ANGLE and the servo events -/

/-- The ends of both ranges: V43 (angle 0), V44 (100), V46 (-1), V45 (channel 9). -/
theorem test_witness_SetAngleCommandsAPosition :
    ((0 : ChannelIx).val = (0x0#4).toNat ∧ (9 : ChannelIx).val = (0x9#4).toNat) ∧
      ∀ a ∈ [0xFF#8, 0x00#8, 0x64#8], -1 ≤ a.toInt ∧ a.toInt ≤ 100 := by decide
/-- V9, V48 and V49 (the ends of 10..15), V50 and V51 (the values next to [-1, 100]). -/
theorem test_witness_SetAngleValidationOrder :
    (0x3000000000001C65#64).extractLsb' 12 48 ≠ 0 ∧
    ((0x3000000000000A00#64).extractLsb' 60 4 = 3 ∧ (0x3000000000000A00#64).extractLsb' 12 48 = 0 ∧
      10 ≤ ((0x3000000000000A00#64).extractLsb' 8 4).toNat) ∧
    ((0x3000000000000F80#64).extractLsb' 60 4 = 3 ∧ (0x3000000000000F80#64).extractLsb' 12 48 = 0 ∧
      10 ≤ ((0x3000000000000F80#64).extractLsb' 8 4).toNat) := by decide
theorem test_witness_SetAngleValidationOrder_angle :
    ((0x3000000000000165#64).extractLsb' 60 4 = 3 ∧ (0x3000000000000165#64).extractLsb' 12 48 = 0 ∧
      ((0x3000000000000165#64).extractLsb' 8 4).toNat < 10 ∧ 100 < ((0x3000000000000165#64).extractLsb' 0 8).toInt) ∧
    ((0x30000000000003FE#64).extractLsb' 60 4 = 3 ∧ (0x30000000000003FE#64).extractLsb' 12 48 = 0 ∧
      ((0x30000000000003FE#64).extractLsb' 8 4).toNat < 10 ∧ ((0x30000000000003FE#64).extractLsb' 0 8).toInt < -1) := by
  decide
/-- V55: channel 0 after channel 9, at angle 0; and channel 2 after channel 1, at angle 100. -/
theorem test_witness_OverflowStartsThePulse :
    (gateOvf v43 = true ∧ (0 : ChannelIx).val = (v43.currentChannel.val + 1) % 10 ∧ v43.angle[0].toInt = 0) ∧
    (gateOvf (after (resetAt 0 1) (cmd 0x3000000000000264)) = true ∧
      (after (resetAt 0 1) (cmd 0x3000000000000264)).currentChannel = 1 ∧
      (after (resetAt 0 1) (cmd 0x3000000000000264)).angle[2].toInt = 100) := by decide
/-- V59. -/
theorem test_witness_OverflowOfADisabledChannel :
    gateOvf v57 = true ∧ (1 : ChannelIx).val = (v57.currentChannel.val + 1) % 10 ∧ v57.angle[1].toInt = -1 := by decide
/-- V57; and V61, before the first overflow. -/
theorem test_witness_CompareMatchEndsThePulse :
    (gateCmp v55 = true ∧ (0 : ChannelIx) = v55.currentChannel) ∧ gateCmp v43 = true ∧ v43.cmpOwed = false := by decide
/-- V57 then V58; V56. -/
theorem test_witness_CompareOccursExactlyWhenGated :
    exec .servoCmpIrq v55 = .next v57 ∧ v57 ≠ v55 ∧ v55.cmpOwed = true := ⟨rfl, by decide, by decide⟩

/-! ### Witnesses: reset and launch -/

theorem test_witness_NothingHappensBeforeTheFirstArm :
    resetAt 7 9 = State.resetWith (config 7 9) draw ∧ resetAt 7 9 ≠ resetAt 0 0 := by decide
/-- V72 meets the first clause; V69, V70, V71 and pin 8 (above) the second. -/
theorem test_witness_LaunchRefusesExactlyIllFormedConfigurations :
    ((rawConfig 0 9 exampleMap).initChannel < 10 ∧
      (∀ c e : ChannelIx, (rawConfig 0 9 exampleMap).lineMap[c] = (rawConfig 0 9 exampleMap).lineMap[e] → c = e) ∧
      ∀ c : ChannelIx, (rawConfig 0 9 exampleMap).lineMap[c].1 ∈ ['A', 'B', 'C', 'D'] ∧
        (rawConfig 0 9 exampleMap).lineMap[c].2 < 8) ∧ ¬(rawConfig 0 10 exampleMap).initChannel < 10 := by decide

/-! ### Witnesses: invariants and reachable states -/

/-- Everything the invariant says, of a state with the agenda running, slots active and a pulse high. -/
def busy : State :=
  { oneSlot 5 1 6 with
    angle := (Vector.replicate 10 0xFF).set 0 0x64, servoRunning := true, servoCmpV := 250, cmpOwed := true
    line := (Vector.replicate 10 false).set 0 true }

theorem test_busy_inv : busy.Inv :=
  ⟨by decide, by decide, by decide, by decide, by decide, by decide, by decide, by decide, by decide, by decide⟩

theorem test_witness_TheInvariantHoldsAtReset : (config 0 9).WellFormed := by decide
theorem test_witness_StepKeepsTheInvariant : busy.Inv ∧ step (offer busy [ev 1]) = .next (after busy (ev 1)) :=
  ⟨test_busy_inv, rfl⟩

theorem reachable_after {s : State} (h : Reachable s) (m : Move) : Reachable (after s m) := by
  unfold after
  split
  · next t ht => exact .stepped _ _ (.offered s [m] h) ht
  · exact h
  · exact h

theorem config_wf (tick : Tick) (c : ChannelIx) : (config tick c).WellFormed := by
  show (config 0 0).WellFormed
  decide

theorem reachable_resetAt (tick : Tick) (c : ChannelIx) : Reachable (resetAt tick c) :=
  .reset _ _ (config_wf tick c)

/-- Reachable states: the agenda running and idle; a line high. -/
theorem test_witness_AgendaRunsExactlyWhileASlotIsActive :
    Reachable v12 ∧ v12.agendaRunning = true ∧ Reachable (resetAt 0 0) ∧ (resetAt 0 0).agendaRunning = false :=
  ⟨reachable_after (reachable_resetAt 0 0) _, by decide, reachable_resetAt 0 0, by decide⟩
theorem test_witness_AtMostOneLineIsHigh : Reachable v55 ∧ v55.line[0] = true :=
  ⟨reachable_after (reachable_after (reachable_resetAt 0 9) _) _, by decide⟩
/-- P5 after its second line: a reachable callback. -/
def inCallback : State := after (after (resetAt 0 0) (cmd 0x100AA00100000001)) (ev 1)
theorem test_witness_InterruptsAreEnabledInCallbacks :
    Reachable inCallback ∧ inCallback.ctx = .callback 0 ∧
      exec .readTick inCallback = .next (inCallback.respond .ok 1) ∧ inCallback.gie = true :=
  ⟨reachable_after (reachable_after (reachable_resetAt 0 0) _) _, by decide, rfl, by decide⟩

/-! ### Witnesses: whole-machine rules -/

/-- A step that takes a tick and one that does not. -/
theorem test_witness_OnlyTickIrqCounts :
    step (offer v12 [ev 1]) = .next (after v12 (ev 1)) ∧ takesTick (offer v12 [ev 1]) = true ∧
      step (offer v12 [ev 2]) = .next (after v12 (ev 2)) ∧ takesTick (offer v12 [ev 2]) = false :=
  ⟨rfl, by decide, rfl, by decide⟩
theorem test_witness_ServoTimerIsNeverDisarmed :
    step (offer v43 [ev 2]) = .next v55 ∧ v43.servoRunning = true := ⟨rfl, by decide⟩
theorem test_witness_ActiveRegistrationIsFixed :
    step (offer v35 [ev 1]) = .next (after v35 (ev 1)) ∧ v35.activeMask.getLsbD (0 : SlotIx).val = true := ⟨rfl, by decide⟩
theorem test_witness_ContextChangesOnlyByFireAndReturn :
    (step (offer v35 [ev 1]) = .next (after v35 (ev 1)) ∧ (after v35 (ev 1)).ctx ≠ v35.ctx) ∧
    (step (offer inCallback [cmd 0x5000000000000000]) = .next (after inCallback (cmd 0x5000000000000000)) ∧
      (after inCallback (cmd 0x5000000000000000)).ctx ≠ inCallback.ctx) := ⟨⟨rfl, by decide⟩, rfl, by decide⟩
/-- By the host, by arming the agenda, by arming the multiplexer. -/
theorem test_witness_GieChangesOnlyByHostOrArming :
    (step (offer v12 [.setGie false]) = .next (after v12 (.setGie false)) ∧ (after v12 (.setGie false)).gie ≠ v12.gie) ∧
    (step (offer (resetAt 0 9) [cmd 0x3000000000000000]) = .next v43 ∧ v43.gie ≠ (resetAt 0 9).gie) :=
  ⟨⟨rfl, by decide⟩, rfl, by decide⟩
theorem test_witness_EachStepHasAtMostOneOutput :
    step (offer v43 [ev 2]) = .next v55 ∧ step (offer v35 [ev 1]) = .next (after v35 (ev 1)) := ⟨rfl, rfl⟩
theorem test_witness_SetGieActsInNormalContextOnly :
    (offer v12 [.setGie false]).moves = .setGie false :: [] ∧ v12.ctx = .normal ∧ inCallback.ctx = .callback 0 := by decide
/-- P6: the bracket, with the agenda idle and with the agenda running; and with the multiplexer idle and running. -/
theorem test_witness_ArmingEndsTheHostsBracket :
    (resetAt 0 0).ctx = .normal ∧ (resetAt 0 0).gie = false ∧ (resetAt 0 0).activeMask ≠ 0xFF ∧
    (after v12 (.setGie false)).gie = false ∧ (after v12 (.setGie false)).agendaRunning = true ∧
    (after v43 (.setGie false)).gie = false ∧ (after v43 (.setGie false)).servoRunning = true ∧
    (0x9#4).toNat < 10 ∧ -1 ≤ (0x64#8).toInt ∧ (0x64#8).toInt ≤ 100 := by decide
/-- V54: arming in a callback. -/
theorem test_witness_NoInstructionWritesGieInACallback :
    inCallback.ctx = .callback 0 ∧ exec (.setAngle 4 10) inCallback = .next (after inCallback (cmd 0x300000000000040A)) ∧
      (Instr.setAngle 4 10) ≠ .cbReturn := ⟨by decide, rfl, by decide⟩

/-! ### Witnesses: runs -/

theorem test_witness_CallbackWithoutReturnBlocksEveryEvent :
    (∀ m ∈ [ev 1, cmd 0x4000000000000000], isReturnMove m = false) ∧
      runSteps 2 (offer inCallback [ev 1, cmd 0x4000000000000000]) =
        .next (after (after inCallback (ev 1)) (cmd 0x4000000000000000)) := ⟨by decide, rfl⟩
/-- W5, the multiplexer running with every channel disabled: ten overflows. -/
theorem test_witness_OverflowsServeChannelsRoundRobin :
    channelsServed 10 (offer { resetAt 0 6 with servoRunning := true, gie := true } (List.replicate 10 (ev 2))) =
      [7, 8, 9, 0, 1, 2, 3, 4, 5, 6] := by decide
theorem test_witness_TickCountsHandlerRuns :
    runSteps 1 (offer v12 [ev 1]) = .next (after v12 (ev 1)) ∧ countSteps takesTick 1 (offer v12 [ev 1]) = 1 :=
  ⟨rfl, by decide⟩

theorem oneSlot_inv (tick : Tick) (fc : Count) (due : Tick) (h : fc.toNat < 2) : (oneSlot tick fc due).Inv := by
  have key : ∀ i : SlotIx, (oneSlot tick fc due).active i = true → i = 0 := by
    show ∀ i : SlotIx, (0x01#8).getLsbD i.val = true → i = 0
    decide
  refine ⟨?_, by simp [oneSlot], by simp [oneSlot], ?_, ?_, ?_, ?_, by simp [oneSlot, resetAt, State.resetWith], ?_, ?_⟩
  · exact config_wf tick 0
  · intro i hi; rw [key i hi]; show (3 : Tick) ≠ 0; decide
  · intro i hi _; rw [key i hi]; exact h
  · intro c; simp [oneSlot, resetAt, State.resetWith, State.angleOf]
  · intro c; simp [oneSlot, resetAt, State.resetWith]
  · intro _; exact ⟨rfl, rfl⟩
  · intro h; cases h

/-- V34 ends with the slot inactive, V33 with the slot active. -/
theorem test_witness_LimitedSlotFiresExactlyItsLimit :
    (∀ s ∈ [oneSlot 5 1 6, oneSlot 2 0 3], s.slots[0].repeatLimit ≠ 0 ∧ s.active 0 = true) ∧
    (∀ m ∈ [ev 1], isCancelMove 0 m = false) ∧
    (after (oneSlot 5 1 6) (ev 1)).active 0 = false ∧ (after (oneSlot 2 0 3) (ev 1)).active 0 = true := by decide
theorem test_witness_LimitedSlotFiresExactlyItsLimit_run :
    (offer (oneSlot 5 1 6) [ev 1]).Inv ∧
      (∀ j u, j < 1 → runSteps j (offer (oneSlot 5 1 6) [ev 1]) = .next u → u.active 0 = true) ∧
      runSteps 1 (offer (oneSlot 5 1 6) [ev 1]) = .next (after (oneSlot 5 1 6) (ev 1)) := by
  have h := oneSlot_inv 5 1 6 (by decide)
  refine ⟨⟨h.lineMap, h.agenda, h.gie, h.interval, h.counted, h.angles, h.lines, h.order, h.servoIdle, h.pulse⟩, ?_, rfl⟩
  intro j u hj hu
  have : j = 0 := by omega
  subst this
  cases hu
  decide
/-- W1 on a short interval: due two ticks from now. -/
theorem test_witness_PeriodicSlotFiresAtItsDueTick :
    (∀ j : SlotIx, ({ v35 with tick := 100, activeMask := 0x01 } : State).activeMask.getLsbD j.val = decide (j = 0)) ∧
      v35.slots[0].repeatLimit = 0 ∧ v35.slots[0].nextDue.toNat = (100 : Tick).toNat + 2 ∧
      gateTick { v35 with tick := 100, activeMask := 0x01 } = true ∧
      [ev 1, ev 1] = List.replicate 2 (.wire (.event 0x01)) ++ [] := by decide
theorem test_witness_CancelledSlotNeverFires :
    (after fullTable (cmd 0x2000000000000003)).activeMask.getLsbD (3 : SlotIx).val = false ∧
      (∀ m ∈ [ev 1], isRegisterMove m = false) ∧
      runSteps 1 (offer (after fullTable (cmd 0x2000000000000003)) [ev 1]) =
        .next (after (after fullTable (cmd 0x2000000000000003)) (ev 1)) := ⟨by decide, by decide, rfl⟩

/-- The timers raise their events in turn. -/
def turn (n : Nat) : Move := ev (BitVec.ofNat 8 (n % 3 + 1))

/-- The run from V55 in which they do so for ever. -/
def fairRun : Nat → State
  | 0 => v55
  | n + 1 => after (fairRun n) (turn n)

theorem turn_event (n : Nat) : turn n = ev 1 ∨ turn n = ev 2 ∨ turn n = ev 3 := by
  have : n % 3 = 0 ∨ n % 3 = 1 ∨ n % 3 = 2 := by omega
  rcases this with h | h | h <;> simp [turn, h]

theorem fairRun_step (n : Nat) : step { fairRun n with moves := [turn n] } = .next (fairRun (n + 1)) := by
  show step (offer (fairRun n) [turn n]) = .next (after (fairRun n) (turn n))
  unfold after
  rcases turn_event n with h | h | h <;> rw [h] <;> rfl

theorem fairRun_open (n : Nat) :
    (fairRun n).gie = true ∧ (fairRun n).ctx = .normal ∧ (fairRun n).agendaRunning = false := by
  induction n with
  | zero => decide
  | succ n ih =>
    have hs := fairRun_step n
    obtain ⟨hg, hc, ha⟩ := ih
    rcases turn_event n with h | h | h <;> rw [h] at hs
    · have e : fairRun (n + 1) = { fairRun n with moves := [] } := by
        have : gateTick { fairRun n with moves := [] } = false := by simp [gateTick, ha]
        have d : decode (.event 1) = .ok .tickIrq := rfl
        simp only [step, nextMove, ev, takeMove, takeWire, d, exec, execTickIrq, this] at hs
        exact (Host.Outcome.next.inj hs).symm
      rw [e]
      exact ⟨hg, hc, ha⟩
    · have d : decode (.event 2) = .ok .servoOvfIrq := rfl
      simp only [step, nextMove, ev, takeMove, takeWire, d, exec, execServoOvfIrq] at hs
      rw [← Host.Outcome.next.inj hs]
      unfold State.ovfHandler
      (repeat' split) <;> simp [hg, hc, ha]
    · have d : decode (.event 3) = .ok .servoCmpIrq := rfl
      simp only [step, nextMove, ev, takeMove, takeWire, d, exec, execServoCmpIrq] at hs
      rw [← Host.Outcome.next.inj hs]
      split <;> simp [hg, hc, ha]

theorem turn_fair : Fair fairRun turn := by
  intro code k hk
  have hc : code = 1 ∨ code = 2 ∨ code = 3 := by
    have := hk k (le_refl k)
    unfold gateOf at this
    split at this
    · next h => exact .inl h
    · split at this
      · next h => exact .inr (.inl h)
      · split at this
        · next h => exact .inr (.inr h)
        · cases this
  rcases hc with h | h | h <;> subst h
  · exact ⟨3 * k, by omega, by simp [turn, ev]⟩
  · exact ⟨3 * k + 1, by omega, by simp [turn, ev, Nat.add_mod]⟩
  · exact ⟨3 * k + 2, by omega, by simp [turn, ev, Nat.add_mod]⟩

theorem test_witness_PulsesEndInFairRuns :
    IsRun fairRun turn ∧ Fair fairRun turn ∧ (fairRun 0).Inv ∧ (fairRun 0).cmpOwed = true ∧
      ∀ n, 0 ≤ n → (fairRun n).gie = true ∧ (fairRun n).ctx = .normal :=
  ⟨fairRun_step, turn_fair,
    ⟨by decide, by decide, by decide, by decide, by decide, by decide, by decide, by decide, by decide, by decide⟩,
    by decide, fun n _ => ⟨(fairRun_open n).1, (fairRun_open n).2.1⟩⟩

/-- Two states that differ in every kind of unspecified value. -/
theorem test_witness_UnspecifiedValuesAreNeverObserved :
    (resetAt 0 9).blur = (State.resetWith (config 0 9)
      { draw with slots := Vector.replicate 8 ⟨0, 0, 0, 0, 0⟩, servoCmpV := 0, tickPf := false, servoCount := 0 }).blur ∧
    resetAt 0 9 ≠ State.resetWith (config 0 9)
      { draw with slots := Vector.replicate 8 ⟨0, 0, 0, 0, 0⟩, servoCmpV := 0, tickPf := false, servoCount := 0 } := by
  decide

end Sys2Proof.Tests
end

section
/-!
PROOFS. The scope family (00_scope.md): one step runs one instruction and adds at most one output; a launch checks the
configuration.
-/

namespace Sys2Proof.Machine

/-! ### One step runs one instruction -/

/-- A move whose bits decode is the instruction's meaning on the state with the move taken off. -/
theorem step_of_decode {s : State} {x : Wire} {rest : List Move} {i : Instr}
    (hm : s.moves = .wire x :: rest) (hd : decode x = .ok i) : step s = exec i { s with moves := rest } := by
  simp only [step, nextMove, hm, takeMove, takeWire, hd]

/-- Settles O1: by the equation of a step whose move decodes. -/
theorem stepRunsTheNextInstruction : Obligations.StepRunsTheNextInstruction :=
  fun _ _ _ _ hm hd => step_of_decode hm hd

/-! ### Outputs of the handlers -/

theorem State.ovfHandler_outputs (s : State) :
    s.ovfHandler.outputs = s.outputs ∨ ∃ p n, s.ovfHandler.outputs = s.outputs ++ [.gpioWrite p n true] := by
  unfold State.ovfHandler
  split
  · exact .inl (State.beginCycle_outputs s)
  · exact .inr ⟨_, _, State.beginPulse_outputs s.beginCycle⟩

theorem State.fireSlot_outputs (s : State) (i : SlotIx) :
    (s.fireSlot i).outputs = s.outputs ++ [.fire i (s.slot i).fn] := by
  simp [State.fireSlot]

theorem State.fireSlot_ctx (s : State) (i : SlotIx) : (s.fireSlot i).ctx = .callback i := by
  simp [State.fireSlot]

theorem State.tickHandler_outputs (s : State) :
    s.tickHandler.outputs = s.outputs ∨
      ∃ i fn, s.tickHandler.outputs = s.outputs ++ [.fire i fn] ∧ s.tickHandler.ctx = .callback i := by
  obtain ⟨-, hn⟩ | ⟨i, -, hf⟩ := s.tickHandler_cases
  · rw [hn]
    exact .inl s.countTick_outputs
  · rw [hf]
    exact .inr ⟨i, _, s.countTick.fireSlot_outputs i, s.countTick.fireSlot_ctx i⟩

/-! ### Outputs of an instruction -/

/-- Everything an instruction can present: nothing, a response, a pin write, or, as a tick that occurs, one firing. -/
theorem exec_outputs {i : Instr} {s t : State} (h : exec i s = .next t) :
    t.outputs = s.outputs ∨
    (∃ w, t.outputs = s.outputs ++ [.response w]) ∨
    (∃ p n b, t.outputs = s.outputs ++ [.gpioWrite p n b]) ∨
    (i = .tickIrq ∧ gateTick s = true ∧ ∃ k fn, t.outputs = s.outputs ++ [.fire k fn] ∧ t.ctx = .callback k) := by
  cases i with
  | register fn rpt ivl =>
    right; left
    obtain ⟨-, e⟩ | ⟨-, -, e⟩ | ⟨k, -, -, e⟩ := execRegister_cases fn rpt ivl s <;> cases e.symm.trans h
    · exact ⟨_, rfl⟩
    · exact ⟨_, rfl⟩
    · exact ⟨_, by rw [State.respond_outputs, State.occupy_outputs]⟩
  | cancel k =>
    cases h
    refine .inr (.inl ⟨respWord .ok 0, ?_⟩)
    split <;> simp
  | setAngle c a =>
    right; left
    obtain ⟨-, e⟩ | ⟨ch, -, -, e⟩ | ⟨ch, -, -, e⟩ := execSetAngle_cases c a s <;> cases e.symm.trans h
    · exact ⟨_, rfl⟩
    · exact ⟨_, rfl⟩
    · exact ⟨respWord .ok 0, by simp⟩
  | readTick =>
    cases h
    exact .inr (.inl ⟨_, rfl⟩)
  | cbReturn =>
    cases h
    right; left
    split <;> exact ⟨_, rfl⟩
  | tickIrq =>
    cases h
    split
    · next hg =>
      obtain hn | ⟨k, fn, hf⟩ := s.tickHandler_outputs
      · exact .inl hn
      · exact .inr (.inr (.inr ⟨rfl, hg, k, fn, hf⟩))
    · exact .inl rfl
  | servoOvfIrq =>
    cases h
    split
    · obtain hn | ⟨p, n, hw⟩ := s.ovfHandler_outputs
      · exact .inl hn
      · exact .inr (.inr (.inl ⟨p, n, true, hw⟩))
    · exact .inl rfl
  | servoCmpIrq =>
    cases h
    split
    · exact .inr (.inr (.inl ⟨_, _, _, s.cmpHandler_outputs⟩))
    · exact .inl rfl

/-! ### At most one output in a step -/

/-- Only the tick event's code stands for TICK_IRQ (R106). -/
theorem eq_event_of_decode_tickIrq {x : Wire} (h : decode x = .ok .tickIrq) : x = .event 1 := by
  cases x with
  | command w =>
    simp only [decode, decodeCommand] at h
    (repeat' split at h) <;> cases h
  | event code =>
    simp only [decode, decodeEvent] at h
    split at h
    · next hc => rw [hc]
    · (repeat' split at h) <;> cases h

/-- A state whose next move is a tick that can occur takes a tick. -/
theorem takesTick_of_moves {s : State} {rest : List Move} (hm : s.moves = .wire (.event 1) :: rest)
    (hg : gateTick s = true) : takesTick s = true := by
  simp [takesTick, nextIsEvent, hm, hg]

theorem State.timerMove_outputs (s : State) (m : TimerMove) : (s.timerMove m).outputs = s.outputs := by
  cases m <;> rfl

/-- Settles O49: along the cases of a step; only a tick that occurs presents a firing. -/
theorem eachStepHasAtMostOneOutput : Obligations.EachStepHasAtMostOneOutput := by
  intro s t h
  obtain ⟨-, rfl⟩ | ⟨x, rest, i, hm, hd, he⟩ | ⟨w, rest, r, -, -, rfl⟩ | ⟨b, rest, -, -, rfl⟩ | ⟨m, rest, -, rfl⟩ :=
    step_cases h
  · exact .inl rfl
  · obtain hn | ⟨w, hr⟩ | ⟨p, n, b, hw⟩ | ⟨rfl, hg, k, fn, hf, hc⟩ := exec_outputs he
    · exact .inl hn
    · exact .inr ⟨_, hr, nofun⟩
    · exact .inr ⟨_, hw, nofun⟩
    · cases eq_event_of_decode_tickIrq hd
      refine .inr ⟨_, hf, fun j fn' e => ?_⟩
      cases e
      exact ⟨takesTick_of_moves hm hg, hc⟩
  · exact .inr ⟨_, rfl, nofun⟩
  · exact .inl rfl
  · exact .inl (State.timerMove_outputs _ m)

/-! ### A configuration's checks -/

/-- A vector has no repeated entry exactly when its entries are distinct index by index. -/
theorem vector_nodup_iff {α : Type} {n : Nat} (v : Vector α n) :
    v.toList.Nodup ↔ ∀ i j : Fin n, v[i] = v[j] → i = j := by
  obtain ⟨a, rfl⟩ := v
  exact List.nodup_iff_injective_getElem.trans ⟨fun h i j => @h i j, fun h i j => h i j⟩

/-- A check of every entry of a vector, index by index. -/
theorem vector_toList_all_iff {α : Type} {n : Nat} (v : Vector α n) (p : α → Bool) :
    v.toList.all p = true ↔ ∀ i : Fin n, p v[i] = true := by
  simp only [List.all_eq_true, Vector.mem_toList_iff, Vector.mem_iff_getElem, Fin.forall_iff, Fin.getElem_fin]
  exact ⟨fun h i hi => h _ ⟨i, hi, rfl⟩, fun h x ⟨i, hi, e⟩ => e ▸ h i hi⟩

theorem portOk_iff (p : Char) : portOk p = true ↔ p ∈ ['A', 'B', 'C', 'D'] := by
  simp [portOk, or_assoc]

/-- R8 in the rule's own words. -/
theorem rawConfig_wellFormed_iff (r : RawConfig) :
    r.wellFormed = true ↔
      r.initChannel < 10 ∧ (∀ c e : ChannelIx, r.lineMap[c] = r.lineMap[e] → c = e) ∧
        ∀ c : ChannelIx, r.lineMap[c].1 ∈ ['A', 'B', 'C', 'D'] ∧ r.lineMap[c].2 < 8 := by
  simp only [RawConfig.wellFormed, RawConfig.initChannelOk, RawConfig.lineMapInjective, RawConfig.portsOk,
    RawConfig.pinsOk, Bool.and_eq_true, decide_eq_true_iff, vector_nodup_iff, vector_toList_all_iff, portOk_iff,
    forall_and, and_assoc]

/-- The checks in R193's order: each that fails names its reason, and none is left when all four hold. -/
theorem configReason_eq_none_iff (r : RawConfig) : configReason r = none ↔ r.wellFormed = true := by
  simp only [configReason, RawConfig.wellFormed]
  cases r.initChannelOk
  · simp
  cases r.lineMapInjective
  · simp
  cases r.portsOk
  · simp
  cases r.pinsOk <;> simp

/-! ### The accepted configuration -/

/-- Each of the four letters names its own port (R76). -/
theorem portOf_faithful {p : Char} (h : p ∈ ['A', 'B', 'C', 'D']) :
    (p = 'A' ↔ portOf p = .A) ∧ (p = 'B' ↔ portOf p = .B) ∧ (p = 'C' ↔ portOf p = .C) ∧ (p = 'D' ↔ portOf p = .D) := by
  simp only [List.mem_cons, List.not_mem_nil, or_false] at h
  rcases h with rfl | rfl | rfl | rfl <;> decide

theorem portOf_inj {p q : Char} (hp : p ∈ ['A', 'B', 'C', 'D']) (hq : q ∈ ['A', 'B', 'C', 'D'])
    (h : portOf p = portOf q) : p = q := by
  obtain ⟨hA, hB, hC, hD⟩ := portOf_faithful hq
  simp only [List.mem_cons, List.not_mem_nil, or_false] at hp
  rcases hp with rfl | rfl | rfl | rfl
  · exact (hA.2 h.symm).symm
  · exact (hB.2 h.symm).symm
  · exact (hC.2 h.symm).symm
  · exact (hD.2 h.symm).symm

theorem acceptedConfig_pin {r : RawConfig} {c : ChannelIx} (h : r.lineMap[c].2 < 8) :
    (acceptedConfig r).lineMap[c].pin.val = r.lineMap[c].2 := by
  rw [acceptedConfig_lineMap]
  exact Nat.mod_eq_of_lt h

theorem acceptedConfig_port (r : RawConfig) (c : ChannelIx) :
    (acceptedConfig r).lineMap[c].port = portOf r.lineMap[c].1 := by
  rw [acceptedConfig_lineMap]

theorem acceptedConfig_initChannel {r : RawConfig} (h : r.initChannel < 10) :
    (acceptedConfig r).initChannel.val = r.initChannel :=
  Nat.mod_eq_of_lt h

/-- The accepted map is injective, as nothing is lost of a port in A..D and a pin in 0..7 (R8). -/
theorem acceptedConfig_wellFormed {r : RawConfig} (hinj : ∀ c e : ChannelIx, r.lineMap[c] = r.lineMap[e] → c = e)
    (hrange : ∀ c : ChannelIx, r.lineMap[c].1 ∈ ['A', 'B', 'C', 'D'] ∧ r.lineMap[c].2 < 8) :
    (acceptedConfig r).WellFormed := by
  refine (vector_nodup_iff _).2 fun c e h => hinj c e (Prod.ext ?_ ?_)
  · have hport := congrArg Pin.port h
    rw [acceptedConfig_port, acceptedConfig_port] at hport
    exact portOf_inj (hrange c).1 (hrange e).1 hport
  · rw [← acceptedConfig_pin (hrange c).2, ← acceptedConfig_pin (hrange e).2, h]

/-! ### The launch -/

theorem launch_of_wellFormed {r : RawConfig} (h : r.wellFormed = true) (d : Draw) :
    launch r d = .next (State.resetWith (acceptedConfig r) d) := by
  simp only [launch, (configReason_eq_none_iff r).2 h]

theorem launch_of_not_wellFormed {r : RawConfig} (h : ¬ r.wellFormed = true) (d : Draw) :
    ∃ e, launch r d = .refused (.configRefused e) := by
  obtain ⟨e, he⟩ := Option.ne_none_iff_exists'.1 (mt (configReason_eq_none_iff r).1 h)
  exact ⟨e, by simp only [launch, he]⟩

/-- Settles O38: the launch's checks are R8's conditions, and under them the accepted parameters are the offered ones. -/
theorem launchRefusesExactlyIllFormedConfigurations :
    Obligations.LaunchRefusesExactlyIllFormedConfigurations := by
  intro r d
  rw [← rawConfig_wellFormed_iff]
  refine ⟨fun hwf => ?_, fun hwf => launch_of_not_wellFormed hwf d⟩
  obtain ⟨hinit, hinj, hrange⟩ := (rawConfig_wellFormed_iff r).1 hwf
  refine ⟨acceptedConfig r, launch_of_wellFormed hwf d, acceptedConfig_wellFormed hinj hrange, rfl,
    acceptedConfig_initChannel hinit, fun c => ⟨acceptedConfig_pin (hrange c).2, ?_⟩⟩
  rw [acceptedConfig_port]
  exact portOf_faithful (hrange c).1

end Sys2Proof.Machine
end

section
/-!
PROOFS. The state family (10_state.md): what an instruction can do, said once; the invariant, which holds at reset and
which every step of every agent keeps; which steps write the tick counter, the multiplexer's enable and the global
interrupt enable.
-/

namespace Sys2Proof.Machine

/-! ### Everything an instruction can do -/

/-- What an instruction does to a state, with the guard under which it does it. A command is told from an event by its
encoding (R106); a command that is rejected, or that has nothing to do, only answers. -/
inductive Effect (s : State) : Instr → State → Prop
  | answered {i : Instr} {w : CmdWord} (st : Status) (v : BitVec 32) :
      encode i = .command w → Effect s i (s.respond st v)
  | registered {fn : Handle} {rpt : Count} {ivl : Tick} (k : SlotIx) :
      ivl ≠ 0 → lowestFree s.activeMask = some k →
        Effect s (.register fn rpt ivl) ((s.occupy k fn rpt ivl).respond .ok (slotValue k))
  | cancelled {k : SlotIx} : s.active k = true → Effect s (.cancel k) ((s.deactivate k).respond .ok 0)
  | commanded {c : BitVec 4} {a : BitVec 8} (ch : ChannelIx) :
      channelOf c = some ch → angleLegal a = true →
        Effect s (.setAngle c a) ((s.setAngle ch a).armServoIfIdle.respond .ok 0)
  | returned : inNormal s = false → Effect s .cbReturn (s.leaveCallback.respond .ok 0)
  | ticked : gateTick s = true → s.countTick.scan = none → Effect s .tickIrq s.countTick
  | fired (k : SlotIx) :
      gateTick s = true → s.countTick.scan = some k → Effect s .tickIrq (s.countTick.fireSlot k)
  | cycled : gateOvf s = true → angleDisabled (s.angleOf (nextChannel s.currentChannel)) = true →
      Effect s .servoOvfIrq s.beginCycle
  | pulsed : gateOvf s = true → angleDisabled (s.angleOf (nextChannel s.currentChannel)) = false →
      Effect s .servoOvfIrq s.beginCycle.beginPulse
  | matched : gateCmp s = true → Effect s .servoCmpIrq s.cmpHandler
  | blocked {i : Instr} {code : EventCode} : encode i = .event code → gateOf code s = false → Effect s i s

theorem execRegister_effect {fn : Handle} {rpt : Count} {ivl : Tick} {s t : State}
    (h : execRegister fn rpt ivl s = .next t) : Effect s (.register fn rpt ivl) t := by
  obtain ⟨-, e⟩ | ⟨-, -, e⟩ | ⟨k, hivl, hk, e⟩ := execRegister_cases fn rpt ivl s <;> cases e.symm.trans h
  · exact .answered _ _ rfl
  · exact .answered _ _ rfl
  · exact .registered k hivl hk

theorem execSetAngle_effect {c : BitVec 4} {a : BitVec 8} {s t : State}
    (h : execSetAngle c a s = .next t) : Effect s (.setAngle c a) t := by
  obtain ⟨-, e⟩ | ⟨ch, -, -, e⟩ | ⟨ch, hch, ha, e⟩ := execSetAngle_cases c a s <;> cases e.symm.trans h
  · exact .answered _ _ rfl
  · exact .answered _ _ rfl
  · exact .commanded ch hch ha

theorem State.tickHandler_effect {s : State} (hg : gateTick s = true) : Effect s .tickIrq s.tickHandler := by
  obtain ⟨hn, e⟩ | ⟨k, hk, e⟩ := s.tickHandler_cases <;> rw [e]
  · exact .ticked hg hn
  · exact .fired k hg hk

theorem State.ovfHandler_effect {s : State} (hg : gateOvf s = true) : Effect s .servoOvfIrq s.ovfHandler := by
  unfold State.ovfHandler
  split
  · next hd => exact .cycled hg hd
  · next hd => exact .pulsed hg (Bool.eq_false_iff.2 hd)

/-- Every meaning is one of the effects. -/
theorem exec_effect {i : Instr} {s t : State} (h : exec i s = .next t) : Effect s i t := by
  cases i with
  | register fn rpt ivl => exact execRegister_effect h
  | cancel k =>
    cases h
    split
    · next hk => exact .cancelled hk
    · exact .answered _ _ rfl
  | setAngle c a => exact execSetAngle_effect h
  | readTick =>
    cases h
    exact .answered _ _ rfl
  | cbReturn =>
    cases h
    split
    · exact .answered _ _ rfl
    · next hn => exact .returned (Bool.eq_false_iff.2 hn)
  | tickIrq =>
    cases h
    split
    · next hg => exact s.tickHandler_effect hg
    · next hg => exact .blocked rfl (Bool.eq_false_iff.2 hg)
  | servoOvfIrq =>
    cases h
    split
    · next hg => exact s.ovfHandler_effect hg
    · next hg => exact .blocked rfl (Bool.eq_false_iff.2 hg)
  | servoCmpIrq =>
    cases h
    split
    · next hg => exact .matched hg
    · next hg => exact .blocked rfl (Bool.eq_false_iff.2 hg)

/-! ### Each operation keeps the invariant

An operation that writes no field the invariant reads keeps it as it stands; any other proves the conjuncts it touches. -/

section
variable {s : State}

theorem State.Inv.withMoves (h : s.Inv) (ms : List Move) : State.Inv { s with moves := ms } := { h with }

theorem State.Inv.respond (h : s.Inv) (st : Status) (v : BitVec 32) : (s.respond st v).Inv := { h with }

theorem State.Inv.countTick (h : s.Inv) : s.countTick.Inv := { h with }

theorem State.Inv.timerMove (h : s.Inv) (m : TimerMove) : (s.timerMove m).Inv := by
  cases m <;> exact { h with }

/-- SET_GIE is a move of the normal context only (R206). -/
theorem State.Inv.withGie (h : s.Inv) (hn : s.ctx = .normal) (b : Bool) : State.Inv { s with gie := b } :=
  { h with gie := fun hc => absurd hn hc }

theorem State.Inv.leaveCallback (h : s.Inv) : s.leaveCallback.Inv := { h with gie := fun hc => absurd rfl hc }

theorem State.Inv.enterCallback (h : s.Inv) (hg : s.gie = true) (k : SlotIx) (fn : Handle) :
    (s.enterCallback k fn).Inv :=
  { h with gie := fun _ => hg }

/-! #### The agenda -/

/-- What the invariant asks of an active slot's five fields (R35, R37, R121). -/
def Slot.Live (v : Slot) : Prop :=
  v.interval ≠ 0 ∧ (v.repeatLimit ≠ 0 → v.firedCount.toNat < v.repeatLimit.toNat)

theorem State.Inv.live (h : s.Inv) {k : SlotIx} (hk : s.active k = true) : (s.slot k).Live :=
  ⟨h.interval k hk, h.counted k hk⟩

theorem newSlot_live {ivl : Tick} (hivl : ivl ≠ 0) (tick : Tick) (fn : Handle) (rpt : Count) :
    (newSlot tick fn rpt ivl).Live :=
  ⟨hivl, fun hr => Nat.pos_of_ne_zero fun e => hr (BitVec.eq_of_toNat_eq e)⟩

/-- Only an active slot's fields matter: a dead slot may be overwritten with anything (R40). -/
theorem State.Inv.setSlot (h : s.Inv) {k : SlotIx} {v : Slot} (hv : s.active k = true → v.Live) :
    (s.setSlot k v).Inv := by
  have live : ∀ i, s.active i = true → ((s.setSlot k v).slot i).Live := fun i hi => by
    rw [State.slot_setSlot]
    split
    · next e => exact hv (e ▸ hi)
    · exact h.live hi
  exact { h with interval := fun i hi => (live i hi).1, counted := fun i hi => (live i hi).2 }

/-- A slot becomes active and the agenda runs (R42). -/
theorem State.Inv.activate_armed (h : s.Inv) {k : SlotIx} (hk : (s.slot k).Live) :
    (s.activate k).armAgendaIfIdle.Inv := by
  have live : ∀ i, maskBit (maskSet s.activeMask k) i = true → (s.slot i).Live := fun i hi => by
    rw [maskBit_maskSet, Bool.or_eq_true, decide_eq_true_iff] at hi
    obtain rfl | hi := hi
    · exact hk
    · exact h.live hi
  have interval := fun i hi => (live i hi).1
  have counted := fun i hi => (live i hi).2
  unfold State.armAgendaIfIdle
  split
  · next hr =>
    exact { h with agenda := iff_of_true hr (maskSet_ne_zero _ _), interval, counted }
  · exact { h with
      agenda := iff_of_true rfl (maskSet_ne_zero _ _)
      gie := fun hc => by simp [State.armedGie_eq, h.gie hc]
      interval, counted }

/-- REGISTER takes a slot (R129). -/
theorem State.Inv.occupy (h : s.Inv) {ivl : Tick} (hivl : ivl ≠ 0) (k : SlotIx) (fn : Handle) (rpt : Count) :
    (s.occupy k fn rpt ivl).Inv := by
  have hv := newSlot_live hivl s.tick fn rpt
  exact (h.setSlot fun _ => hv).activate_armed (by rwa [State.slot_setSlot_self])

/-- An active slot's bit is cleared, and the agenda runs on exactly while another is set (R42, R124). -/
theorem State.Inv.deactivate (h : s.Inv) {k : SlotIx} (hk : s.active k = true) : (s.deactivate k).Inv := by
  have hr : s.agendaRunning = true := h.agenda.2 fun hz => by
    rw [State.active, (mask_eq_zero_iff _).1 hz k] at hk
    cases hk
  have still : ∀ i, maskBit (maskClear s.activeMask k) i = true → s.active i = true := fun i hi => by
    rw [maskBit_maskClear, Bool.and_eq_true] at hi
    exact hi.2
  have interval := fun i hi => h.interval i (still i hi)
  have counted := fun i hi => h.counted i (still i hi)
  unfold State.deactivate State.disarmAgendaIfEmpty
  split
  · next hz => exact { h with agenda := iff_of_false Bool.false_ne_true (not_not.2 hz), interval, counted }
  · next hz => exact { h with agenda := iff_of_true hr hz, interval, counted }

/-- Clearing the active bit and writing the slot's fields do not touch each other. -/
theorem State.deactivate_setSlot (s : State) (k : SlotIx) (v : Slot) :
    (s.setSlot k v).deactivate k = (s.deactivate k).setSlot k v := by
  unfold State.deactivate State.disarmAgendaIfEmpty
  rw [apply_ite (State.setSlot · k v)]
  rfl

theorem State.deactivate_active_self (s : State) (k : SlotIx) : (s.deactivate k).active k = false := by
  simp [State.active]

/-- The fire-count update (R135): a slot that stays active has firings left, an exhausted one is dead. -/
theorem State.Inv.fireUpdate (h : s.Inv) {k : SlotIx} (hk : s.active k = true) : (s.fireUpdate k).Inv := by
  obtain ⟨hivl, hcount⟩ := h.live hk
  obtain ⟨-, e⟩ | ⟨hl, hne, e⟩ | ⟨-, -, e⟩ := s.fireUpdate_cases k <;> rw [e]
  · exact h.setSlot fun _ => ⟨hivl, hcount⟩
  · refine h.setSlot fun _ => ⟨hivl, fun _ => ?_⟩
    have := hcount hl
    simp only [Slot.advance]
    bv_omega
  · rw [State.deactivate_setSlot]
    exact (h.deactivate hk).setSlot fun ha => absurd ha (by simp [State.deactivate_active_self])

/-- A firing enters the callback context with interrupts enabled (R128). -/
theorem State.Inv.fireSlot (h : s.Inv) {k : SlotIx} (hk : s.active k = true) (hg : s.gie = true) :
    (s.fireSlot k).Inv :=
  (h.fireUpdate hk).enterCallback (by rwa [State.fireUpdate_gie]) _ _

/-! #### The servo multiplexer -/

theorem State.Inv.setAngle (h : s.Inv) {a : BitVec 8} (ha : -1 ≤ a.toInt ∧ a.toInt ≤ 100) (ch : ChannelIx) :
    (s.setAngle ch a).Inv :=
  { h with
    angles := fun c => by
      rw [State.angleOf_setAngle]
      split
      · exact ha
      · exact h.angles c }

theorem State.Inv.armServoIfIdle (h : s.Inv) : s.armServoIfIdle.Inv := by
  unfold State.armServoIfIdle
  split
  · exact h
  · exact { h with gie := fun hc => by simp [State.armedGie_eq, h.gie hc], servoIdle := nofun }

/-- While no compare match is owed every line is low (R171). -/
theorem State.Inv.line_low (h : s.Inv) (ho : s.cmpOwed = false) (c : ChannelIx) : s.line[c] = false := by
  rw [h.lines c, ho, Bool.and_false]

theorem State.Inv.beginCycle (h : s.Inv) (ho : s.cmpOwed = false) : s.beginCycle.Inv :=
  { h with
    lines := fun c => by simp [ho, h.line_low ho c]
    order := by simp
    servoIdle := fun _ => ⟨ho, rfl⟩ }

/-- A legal angle that is not disabled commits to a pulse in 150..250 (R161). -/
theorem committedPulse_range {a : BitVec 8} (hl : -1 ≤ a.toInt ∧ a.toInt ≤ 100) (hd : angleDisabled a = false) :
    150 ≤ (committedPulse a).toNat ∧ (committedPulse a).toNat ≤ 250 := by
  have hne : a.toInt ≠ -1 := fun e => by simp [(angleDisabled_iff a).2 e] at hd
  rw [committedPulse, BitVec.toNat_ofInt]
  omega

/-- A pulse begins in a cycle in which none has been owed or done (R167). -/
theorem State.Inv.beginPulse (h : s.Inv) (hr : s.servoRunning = true) (ho : s.cmpOwed = false)
    (hdone : s.cmpDone = false) (hd : angleDisabled (s.angleOf s.currentChannel) = false) : s.beginPulse.Inv :=
  { h with
    lines := fun c => by
      rw [State.beginPulse_line, line_set, h.line_low ho c]
      split <;> simp [*]
    order := by simp [hdone]
    servoIdle := fun hi => absurd hr (Bool.eq_false_iff.1 hi)
    pulse := fun _ => committedPulse_range (h.angles _) hd }

/-- The current channel's line falls, and no other was high (R169, R171). -/
theorem State.Inv.cmpHandler (h : s.Inv) (hr : s.servoRunning = true) : s.cmpHandler.Inv :=
  { h with
    lines := fun c => by
      rw [State.cmpHandler_line, line_set, h.lines c]
      split <;> simp [*]
    order := by simp
    servoIdle := fun hi => absurd hr (Bool.eq_false_iff.1 hi)
    pulse := nofun }

end

/-! ### Every step keeps the invariant -/

theorem exec_keeps_inv {i : Instr} {s t : State} (h : s.Inv) (he : exec i s = .next t) : t.Inv := by
  cases exec_effect he with
  | answered st v => exact h.respond st v
  | registered k hivl => exact (h.occupy hivl k _ _).respond _ _
  | cancelled hk => exact (h.deactivate hk).respond _ _
  | commanded ch _ ha => exact (h.setAngle ((angleLegal_iff _).1 ha) ch).armServoIfIdle.respond _ _
  | returned => exact h.leaveCallback.respond _ _
  | ticked => exact h.countTick
  | fired k hg hk =>
    obtain ⟨-, hgie, -⟩ := (gateTick_iff s).1 hg
    obtain ⟨heligible, -⟩ := (State.scan_eq_some _ k).1 hk
    obtain ⟨hactive, -⟩ := (State.eligible_iff _ k).1 heligible
    exact h.countTick.fireSlot hactive hgie
  | cycled hg =>
    obtain ⟨-, -, -, ho⟩ := (gateOvf_iff s).1 hg
    exact h.beginCycle ho
  | pulsed hg hd =>
    obtain ⟨hr, -, -, ho⟩ := (gateOvf_iff s).1 hg
    exact (h.beginCycle ho).beginPulse hr ho rfl hd
  | matched hg =>
    obtain ⟨hr, -⟩ := (gateCmp_iff s).1 hg
    exact h.cmpHandler hr
  | blocked => exact h

theorem step_keeps_inv {s t : State} (h : s.Inv) (hs : step s = .next t) : t.Inv := by
  obtain ⟨-, rfl⟩ | ⟨x, rest, i, -, -, he⟩ | ⟨w, rest, r, -, -, rfl⟩ | ⟨b, rest, -, hn, rfl⟩ | ⟨m, rest, -, rfl⟩ :=
    step_cases hs
  · exact h
  · exact exec_keeps_inv (h.withMoves rest) he
  · exact (h.withMoves rest).respond _ _
  · exact (h.withMoves rest).withGie hn b
  · exact (h.withMoves rest).timerMove m

/-- Settles O40: each operation keeps the invariant, so each instruction and each other move does. -/
theorem stepKeepsTheInvariant : Obligations.StepKeepsTheInvariant :=
  fun _ _ h hs => step_keeps_inv h hs

/-! ### Reset -/

theorem Pin.ofIndex_injective : Function.Injective Pin.ofIndex := by
  unfold Function.Injective
  decide

/-- The platform's line map is the first ten lines of a permutation (R8). -/
theorem platform_wellFormed : Config.platform.WellFormed := by
  refine (vector_nodup_iff _).2 fun c e h => ?_
  simp only [Config.platform, Fin.getElem_fin, Vector.getElem_ofFn] at h
  exact Fin.castLE_injective _ (Config.platformLines.injective (Pin.ofIndex_injective h))

theorem resetWith_angleOf (c : Config) (d : Draw) (ch : ChannelIx) : ((State.resetWith c d).angleOf ch).toInt = -1 := by
  simp [State.resetWith, State.angleOf]

theorem resetWith_line (c : Config) (d : Draw) (ch : ChannelIx) : (State.resetWith c d).line[ch] = false := by
  simp [State.resetWith]

/-- Settles O36: the fields that the reset state names, with State.reset under the platform's configuration. -/
theorem resetValues : Obligations.ResetValues :=
  ⟨fun c d => ⟨rfl, rfl, rfl, fun ch => ⟨resetWith_angleOf c d ch, resetWith_line c d ch⟩, rfl, rfl, rfl, rfl, rfl, rfl⟩,
    Config.platform, Draw.platform, rfl, platform_wellFormed⟩

theorem resetWith_inv {c : Config} (h : c.WellFormed) (d : Draw) : (State.resetWith c d).Inv where
  lineMap := h
  agenda := iff_of_false Bool.false_ne_true (not_not.2 rfl)
  gie := fun hc => absurd rfl hc
  interval := fun i hi => by simp [State.resetWith, State.active, maskBit] at hi
  counted := fun i hi => by simp [State.resetWith, State.active, maskBit] at hi
  angles := fun ch => by rw [resetWith_angleOf]; decide
  lines := fun ch => by rw [resetWith_line]; simp [State.resetWith]
  order := nofun
  servoIdle := fun _ => ⟨rfl, rfl⟩
  pulse := nofun

/-- Settles O39: no slot is active, every angle is -1 and no match is owed at reset. -/
theorem theInvariantHoldsAtReset : Obligations.TheInvariantHoldsAtReset :=
  ⟨resetWith_inv platform_wellFormed _, fun _ d h => resetWith_inv h d⟩

/-! ### Reachable states -/

theorem Reachable.inv {s : State} (h : Reachable s) : s.Inv := by
  induction h with
  | reset c d hc => exact resetWith_inv hc d
  | offered s ms _ ih => exact ih.withMoves ms
  | stepped s t _ hs ih => exact step_keeps_inv ih hs

/-- Settles O41: a conjunct of the invariant, which every reachable state meets. -/
theorem agendaRunsExactlyWhileASlotIsActive : Obligations.AgendaRunsExactlyWhileASlotIsActive :=
  fun _ h => h.inv.agenda

/-- Settles O2: by the equation of a step with no move to come. -/
theorem stepWaitsWithoutAMove : Obligations.StepWaitsWithoutAMove := by
  intro s hm
  simp only [step, nextMove, hm]

/-! ### The tick counter -/

/-- A tick that occurs adds 1; no other effect writes the counter (R32). -/
theorem exec_tick {i : Instr} {s t : State} (h : exec i s = .next t) :
    t.tick = if i = .tickIrq ∧ gateTick s = true then s.tick + 1 else s.tick := by
  cases exec_effect h with
  | ticked hg => simp [hg]
  | fired k hg => simp [hg, State.fireSlot]
  | answered st v hw =>
    rw [if_neg (by rintro ⟨rfl, -⟩; cases hw)]
    rfl
  | blocked hc hb =>
    rw [if_neg]
    rintro ⟨rfl, hg⟩
    cases hc
    simp [gateOf, hg] at hb
  | registered | cancelled | commanded | returned | cycled | pulsed | matched => simp

theorem takesTick_iff (s : State) :
    takesTick s = true ↔ (∃ rest, s.moves = .wire (.event 1) :: rest) ∧ gateTick s = true := by
  simp only [takesTick, nextIsEvent, Bool.and_eq_true, beq_iff_eq, List.head?_eq_some_iff]

/-- Of the moves whose bits decode, only a TICK_IRQ whose gate holds takes a tick. -/
theorem takesTick_iff_of_decode {s : State} {x : Wire} {rest : List Move} {i : Instr}
    (hm : s.moves = .wire x :: rest) (hd : decode x = .ok i) :
    takesTick s = true ↔ i = .tickIrq ∧ gateTick s = true := by
  rw [takesTick_iff, hm]
  refine and_congr_left fun _ => ⟨?_, ?_⟩
  · rintro ⟨_, e⟩
    cases e
    exact (Except.ok.inj hd).symm
  · rintro rfl
    exact ⟨rest, by rw [eq_event_of_decode_tickIrq hd]⟩

theorem State.timerMove_tick (s : State) (m : TimerMove) : (s.timerMove m).tick = s.tick := by
  cases m <;> rfl

theorem step_tick {s t : State} (h : step s = .next t) :
    t.tick = if takesTick s = true then s.tick + 1 else s.tick := by
  obtain ⟨hm, rfl⟩ | ⟨x, rest, i, hm, hd, he⟩ | ⟨w, rest, r, hm, -, rfl⟩ | ⟨b, rest, hm, -, rfl⟩ | ⟨m, rest, hm, rfl⟩ :=
    step_cases h
  · simp [takesTick_iff, hm]
  · rw [exec_tick he]
    simp only [takesTick_iff_of_decode hm hd]
    rfl
  · simp [takesTick_iff, hm, State.illegalCommand]
  · simp [takesTick_iff, hm]
  · simp [takesTick_iff, hm, State.timerMove_tick]

/-- Settles O44: by the tick counter after a step. -/
theorem onlyTickIrqCounts : Obligations.OnlyTickIrqCounts :=
  fun s t h => ⟨fun hk => by simp [step_tick h, hk, BitVec.toNat_add], fun hk => by simp [step_tick h, hk]⟩

/-- Settles O55: by induction on the number of steps. -/
theorem tickCountsHandlerRuns : Obligations.TickCountsHandlerRuns := by
  intro n
  induction n with
  | zero =>
    intro s t h
    cases h
    simp [countSteps, Nat.mod_eq_of_lt s.tick.isLt]
  | succ n ih =>
    intro s t h
    obtain ⟨u, hu, hrun⟩ := runSteps_succ_next h
    obtain ⟨htake, hkeep⟩ := onlyTickIrqCounts s u hu
    simp only [ih u t hrun, countSteps, hu]
    cases hk : takesTick s with
    | true =>
      rw [htake hk]
      simp only [if_true]
      omega
    | false => simp [hkeep hk]

/-! ### The multiplexer's enable -/

theorem exec_servoRunning {i : Instr} {s t : State} (h : exec i s = .next t) (hr : s.servoRunning = true) :
    t.servoRunning = true := by
  cases exec_effect h with
  | commanded => simp
  | fired => simp [State.fireSlot, hr]
  | answered | registered | cancelled | returned | ticked | cycled | pulsed | matched | blocked => simp [hr]

theorem State.timerMove_servoRunning (s : State) (m : TimerMove) : (s.timerMove m).servoRunning = s.servoRunning := by
  cases m <;> rfl

/-- Settles O45: no effect writes 0 to the enable. -/
theorem servoTimerIsNeverDisarmed : Obligations.ServoTimerIsNeverDisarmed := by
  intro s t h hr
  obtain ⟨-, rfl⟩ | ⟨x, rest, i, -, -, he⟩ | ⟨w, rest, r, -, -, rfl⟩ | ⟨b, rest, -, -, rfl⟩ | ⟨m, rest, -, rfl⟩ :=
    step_cases h
  · exact hr
  · exact exec_servoRunning he hr
  · exact hr
  · exact hr
  · exact (State.timerMove_servoRunning _ m).trans hr

/-! ### The global interrupt enable -/

/-- One of the two timers was idle and is armed now. -/
def ArmsATimer (s t : State) : Prop :=
  (s.agendaRunning = false ∧ t.agendaRunning = true) ∨ (s.servoRunning = false ∧ t.servoRunning = true)

/-- What arming an idle timer leaves in `gie` differs from what was there only in normal context (R123, R162). -/
theorem armedIfIdle_gie_cases {s : State} {running g : Bool} (hg : g = (s.gie || (!running && inNormal s))) :
    g = s.gie ∨ (s.ctx = .normal ∧ g = true ∧ running = false) := by
  by_cases hc : running = false ∧ inNormal s = true
  · obtain ⟨rfl, hn⟩ := hc
    exact .inr ⟨(inNormal_iff s).1 hn, by simp [hg, hn], rfl⟩
  · have hkeep : (!running && inNormal s) = false := by simpa using hc
    exact .inl (by rw [hg, hkeep, Bool.or_false])

/-- An instruction writes `gie` only to arm a timer in normal context (R50, R123, R162). -/
theorem exec_gie {i : Instr} {s t : State} (h : exec i s = .next t) :
    t.gie = s.gie ∨ (s.ctx = .normal ∧ t.gie = true ∧ ArmsATimer s t) := by
  cases exec_effect h with
  | registered k =>
    exact (armedIfIdle_gie_cases (s.occupy_gie k _ _ _)).imp_right fun ⟨hn, hg, hidle⟩ =>
      ⟨hn, hg, .inl ⟨hidle, s.occupy_agendaRunning k _ _ _⟩⟩
  | commanded ch =>
    exact (armedIfIdle_gie_cases (s.setAngle ch _).armServoIfIdle_gie).imp_right fun ⟨hn, hg, hidle⟩ =>
      ⟨hn, hg, .inr ⟨hidle, State.armServoIfIdle_servoRunning _⟩⟩
  | fired => exact .inl (by simp [State.fireSlot])
  | answered | cancelled | returned | ticked | cycled | pulsed | matched | blocked => exact .inl (by simp)

theorem State.timerMove_gie (s : State) (m : TimerMove) : (s.timerMove m).gie = s.gie := by
  cases m <;> rfl

/-- Settles O48: along the cases of a step; SET_GIE and arming are the only writers. -/
theorem gieChangesOnlyByHostOrArming : Obligations.GieChangesOnlyByHostOrArming := by
  intro s t h hne
  obtain ⟨-, rfl⟩ | ⟨x, rest, i, -, -, he⟩ | ⟨w, rest, r, -, -, rfl⟩ | ⟨b, rest, hm, hn, rfl⟩ | ⟨m, rest, -, rfl⟩ :=
    step_cases h
  · exact absurd rfl hne
  · obtain hsame | ⟨hn, ht, harm⟩ := exec_gie he
    · exact absurd hsame hne
    · exact ⟨hn, .inr ⟨ht, harm⟩⟩
  · exact absurd rfl hne
  · exact ⟨hn, .inl ⟨b, rest, hm, rfl⟩⟩
  · exact absurd (State.timerMove_gie _ m) hne

end Sys2Proof.Machine
end

section
/-!
PROOFS. The memory family (20_memory.md): the slot table across a run. A step takes at most one move off the list, only
REGISTER activates a slot, and only an active slot fires.
-/

namespace Sys2Proof.Machine

/-! ### The moves to come -/

theorem exec_moves {i : Instr} {s t : State} (h : exec i s = .next t) : t.moves = s.moves := by
  cases exec_effect h with
  | fired => simp [State.fireSlot]
  | answered | registered | cancelled | commanded | returned | ticked | cycled | pulsed | matched | blocked => simp

theorem State.timerMove_moves (s : State) (m : TimerMove) : (s.timerMove m).moves = s.moves := by
  cases m <;> rfl

/-- A step takes the first move, and the block waits when there is none. -/
theorem step_moves {s t : State} (h : step s = .next t) : t.moves = s.moves.tail := by
  obtain ⟨hm, rfl⟩ | ⟨x, rest, i, hm, -, he⟩ | ⟨w, rest, r, hm, -, rfl⟩ | ⟨b, rest, hm, -, rfl⟩ | ⟨m, rest, hm, rfl⟩ :=
    step_cases h <;> rw [hm]
  · rfl
  · exact exec_moves he
  · rfl
  · rfl
  · exact State.timerMove_moves _ m

/-! ### Only REGISTER activates a slot -/

theorem State.fireUpdate_keeps_inactive {s : State} {k : SlotIx} (hk : s.active k = false) (j : SlotIx) :
    (s.fireUpdate j).active k = false := by
  unfold State.active at *
  obtain ⟨-, e⟩ | ⟨-, -, e⟩ | ⟨-, -, e⟩ := s.fireUpdate_cases j <;> simp [e, hk]

theorem exec_keeps_inactive {i : Instr} {s t : State} {k : SlotIx} (h : exec i s = .next t)
    (hreg : ∀ fn rpt ivl, i ≠ .register fn rpt ivl) (hk : s.active k = false) : t.active k = false := by
  cases exec_effect h with
  | registered => exact absurd rfl (hreg _ _ _)
  | cancelled =>
    unfold State.active at *
    simp [hk]
  | fired j => exact State.fireUpdate_keeps_inactive (s := s.countTick) hk j
  | commanded =>
    rw [← hk]
    exact State.active_congr (by simp) k
  | answered | returned | ticked | cycled | pulsed | matched | blocked => exact hk

theorem isRegisterMove_of_decode {x : Wire} {fn : Handle} {rpt : Count} {ivl : Tick}
    (hd : decode x = .ok (.register fn rpt ivl)) : isRegisterMove (.wire x) = true := by
  simp [isRegisterMove, hd]

theorem State.timerMove_active (s : State) (m : TimerMove) (k : SlotIx) : (s.timerMove m).active k = s.active k := by
  cases m <;> rfl

theorem step_keeps_inactive {s t : State} {k : SlotIx} (h : step s = .next t)
    (hreg : ∀ m ∈ s.moves, isRegisterMove m = false) (hk : s.active k = false) : t.active k = false := by
  obtain ⟨-, rfl⟩ | ⟨x, rest, i, hm, hd, he⟩ | ⟨w, rest, r, -, -, rfl⟩ | ⟨b, rest, -, -, rfl⟩ | ⟨m, rest, -, rfl⟩ :=
    step_cases h
  · exact hk
  · refine exec_keeps_inactive he ?_ hk
    rintro fn rpt ivl rfl
    have hx : isRegisterMove (.wire x) = false := hreg _ (by simp [hm])
    simp [isRegisterMove_of_decode hd] at hx
  · exact hk
  · exact hk
  · exact (State.timerMove_active _ m k).trans hk

/-! ### Only an active slot fires -/

/-- What `t` has presented since `s` holds no firing of slot `k`. -/
def NoFireSince (k : SlotIx) (s t : State) : Prop :=
  ∃ new, t.outputs = s.outputs ++ new ∧ firesOf k new = 0

theorem NoFireSince.of_outputs_eq {k : SlotIx} {s t : State} (h : t.outputs = s.outputs) : NoFireSince k s t :=
  ⟨[], by simp [h], rfl⟩

theorem NoFireSince.of_outputs_append {k : SlotIx} {s t : State} {o : Output} (h : t.outputs = s.outputs ++ [o])
    (ho : isFireOf k o = false) : NoFireSince k s t :=
  ⟨[o], h, by simp [firesOf, ho]⟩

theorem NoFireSince.trans {k : SlotIx} {s t u : State} (hst : NoFireSince k s t) (htu : NoFireSince k t u) :
    NoFireSince k s u := by
  obtain ⟨a, hta, ha⟩ := hst
  obtain ⟨b, hub, hb⟩ := htu
  refine ⟨a ++ b, by rw [hub, hta, List.append_assoc], ?_⟩
  rw [firesOf, List.countP_append]
  exact Nat.add_eq_zero_iff.2 ⟨ha, hb⟩

/-- An instruction presents the firing of a slot only if that slot was active (R121). -/
theorem active_of_exec_fire {i : Instr} {s t : State} {k : SlotIx} {fn : Handle} (h : exec i s = .next t)
    (hf : t.outputs = s.outputs ++ [.fire k fn]) : s.active k = true := by
  cases exec_effect h with
  | fired j _ hj =>
    rw [State.fireSlot_outputs] at hf
    obtain ⟨rfl, -⟩ : j = k ∧ _ := by simpa using hf
    obtain ⟨heligible, -⟩ := (State.scan_eq_some _ j).1 hj
    obtain ⟨hactive, -⟩ := (State.eligible_iff _ j).1 heligible
    exact hactive
  | answered | registered | cancelled | commanded | returned | ticked | cycled | pulsed | matched | blocked =>
    simp at hf

theorem exec_noFireSince {i : Instr} {s t : State} {k : SlotIx} (h : exec i s = .next t) (hk : s.active k = false) :
    NoFireSince k s t := by
  obtain hn | ⟨w, hr⟩ | ⟨p, n, b, hw⟩ | ⟨-, -, j, fn, hf, -⟩ := exec_outputs h
  · exact .of_outputs_eq hn
  · exact .of_outputs_append hr rfl
  · exact .of_outputs_append hw rfl
  · refine .of_outputs_append hf (decide_eq_false ?_)
    rintro rfl
    simp [active_of_exec_fire h hf] at hk

theorem step_noFireSince {s t : State} {k : SlotIx} (h : step s = .next t) (hk : s.active k = false) :
    NoFireSince k s t := by
  obtain ⟨-, rfl⟩ | ⟨x, rest, i, -, -, he⟩ | ⟨w, rest, r, -, -, rfl⟩ | ⟨b, rest, -, -, rfl⟩ | ⟨m, rest, -, rfl⟩ :=
    step_cases h
  · exact .of_outputs_eq rfl
  · exact exec_noFireSince (s := { s with moves := rest }) he hk
  · exact .of_outputs_append rfl rfl
  · exact .of_outputs_eq rfl
  · exact .of_outputs_eq (State.timerMove_outputs _ m)

/-! ### A cancelled slot -/

/-- Settles O58: by induction on the number of steps; each step leaves the slot inactive and does not fire it. -/
theorem cancelledSlotNeverFires : Obligations.CancelledSlotNeverFires := by
  intro n
  induction n with
  | zero =>
    intro s t k hk _ h
    cases h
    exact ⟨hk, NoFireSince.of_outputs_eq rfl⟩
  | succ n ih =>
    intro s t k hk hreg h
    obtain ⟨u, hu, hrun⟩ := runSteps_succ_next h
    have hregu : ∀ m ∈ u.moves, isRegisterMove m = false := by
      rw [step_moves hu]
      exact fun m hm => hreg m (List.mem_of_mem_tail hm)
    obtain ⟨hkt, hfires⟩ := ih u t k (step_keeps_inactive hu hreg hk) hregu hrun
    exact ⟨hkt, (step_noFireSince hu hk).trans hfires⟩

end Sys2Proof.Machine
end

section
/-!
PROOFS. The encoding family (30_encoding.md): decoding and encoding are each other's inverse, which is said once as an
equivalence and read off the fields of each format; illegal words and their one answer; the rows of the opcode table; the
assembler; the response word.
-/

namespace Sys2Proof.Machine

/-! ### Bits as numbers -/

theorem toNat_append_eq_add {m n : ℕ} (x : BitVec m) (y : BitVec n) :
    (x ++ y).toNat = x.toNat * 2 ^ n + y.toNat := by
  rw [BitVec.toNat_append, ← Nat.shiftLeft_add_eq_or_of_lt y.isLt, Nat.shiftLeft_eq]

/-- A field holds a value exactly when the word's quotient and remainder say so. -/
theorem extractLsb'_eq_iff {m n : ℕ} (w : BitVec m) (start : ℕ) (v : BitVec n) :
    w.extractLsb' start n = v ↔ w.toNat / 2 ^ start % 2 ^ n = v.toNat := by
  rw [← BitVec.toNat_inj, BitVec.extractLsb'_toNat, Nat.shiftRight_eq_div_pow]

theorem slotField_eq_iff (w : CmdWord) (k : SlotIx) : slotField w = k ↔ w.toNat % 2 ^ 3 = k.val := by
  rw [Fin.ext_iff, slotField, BitVec.val_toFin, BitVec.extractLsb'_toNat, Nat.shiftRight_zero]

/-! ### The words of the formats -/

/-- Format R (R92). -/
def registerWord (fn : Handle) (rpt : Count) (ivl : Tick) : CmdWord := 0x1#4 ++ fn ++ 0x0#4 ++ rpt ++ ivl

/-- Format S (R93). -/
def cancelWord (k : SlotIx) : CmdWord := 0x2#4 ++ 0#57 ++ (BitVec.ofFin k : BitVec 3)

/-- Format A (R94). -/
def setAngleWord (c : BitVec 4) (a : BitVec 8) : CmdWord := 0x3#4 ++ 0#48 ++ c ++ a

/-- Format N (R95, R96): an opcode and no operand. -/
def bareWord (op : BitVec 4) : CmdWord := op ++ 0#60

theorem encode_register (fn : Handle) (rpt : Count) (ivl : Tick) :
    encode (.register fn rpt ivl) = .command (registerWord fn rpt ivl) := rfl

theorem encode_cancel (k : SlotIx) : encode (.cancel k) = .command (cancelWord k) := rfl

theorem encode_setAngle (c : BitVec 4) (a : BitVec 8) : encode (.setAngle c a) = .command (setAngleWord c a) := rfl

theorem encode_readTick : encode .readTick = .command (bareWord 4) := rfl

theorem encode_cbReturn : encode .cbReturn = .command (bareWord 5) := rfl

theorem toNat_registerWord (fn : Handle) (rpt : Count) (ivl : Tick) :
    (registerWord fn rpt ivl).toNat = 0x1 * 2 ^ 60 + fn.toNat * 2 ^ 44 + rpt.toNat * 2 ^ 32 + ivl.toNat := by
  simp only [registerWord, toNat_append_eq_add, BitVec.toNat_ofNat]
  omega

theorem toNat_cancelWord (k : SlotIx) : (cancelWord k).toNat = 0x2 * 2 ^ 60 + k.val := by
  simp only [cancelWord, toNat_append_eq_add, BitVec.toNat_ofNat, BitVec.toNat_ofFin]
  omega

theorem toNat_setAngleWord (c : BitVec 4) (a : BitVec 8) :
    (setAngleWord c a).toNat = 0x3 * 2 ^ 60 + c.toNat * 2 ^ 8 + a.toNat := by
  simp only [setAngleWord, toNat_append_eq_add, BitVec.toNat_ofNat]
  omega

theorem toNat_bareWord (op : BitVec 4) : (bareWord op).toNat = op.toNat * 2 ^ 60 := by
  simp only [bareWord, toNat_append_eq_add, BitVec.toNat_ofNat]
  omega

/-! ### A format's word is its fields -/

theorem registerWord_eq_iff (fn : Handle) (rpt : Count) (ivl : Tick) (w : CmdWord) :
    registerWord fn rpt ivl = w ↔
      opField w = 1 ∧ w.extractLsb' 40 4 = 0 ∧ fnField w = fn ∧ rptField w = rpt ∧ ivlField w = ivl := by
  simp only [← BitVec.toNat_inj (x := registerWord fn rpt ivl), toNat_registerWord, opField, fnField, rptField, ivlField,
    extractLsb'_eq_iff, BitVec.ofNat_eq_ofNat, BitVec.toNat_ofNat]
  omega

theorem cancelWord_eq_iff (k : SlotIx) (w : CmdWord) :
    cancelWord k = w ↔ opField w = 2 ∧ w.extractLsb' 3 57 = 0 ∧ slotField w = k := by
  simp only [← BitVec.toNat_inj (x := cancelWord k), toNat_cancelWord, opField, slotField_eq_iff,
    extractLsb'_eq_iff, BitVec.ofNat_eq_ofNat, BitVec.toNat_ofNat]
  omega

theorem setAngleWord_eq_iff (c : BitVec 4) (a : BitVec 8) (w : CmdWord) :
    setAngleWord c a = w ↔ opField w = 3 ∧ w.extractLsb' 12 48 = 0 ∧ chField w = c ∧ angField w = a := by
  simp only [← BitVec.toNat_inj (x := setAngleWord c a), toNat_setAngleWord, opField, chField, angField,
    extractLsb'_eq_iff, BitVec.ofNat_eq_ofNat, BitVec.toNat_ofNat]
  omega

theorem bareWord_eq_iff (op : BitVec 4) (w : CmdWord) :
    bareWord op = w ↔ opField w = op ∧ w.extractLsb' 0 60 = 0 := by
  simp only [← BitVec.toNat_inj (x := bareWord op), toNat_bareWord, opField,
    extractLsb'_eq_iff, BitVec.ofNat_eq_ofNat, BitVec.toNat_ofNat]
  omega

/-! ### Decoding and encoding are inverse -/

/-- Which words the decoder accepts, in R105's order of cases. -/
theorem decodeCommand_eq_ok_iff (w : CmdWord) (i : Instr) : decodeCommand w = .ok i ↔
    (opField w = 1 ∧ w.extractLsb' 40 4 = 0 ∧ i = .register (fnField w) (rptField w) (ivlField w)) ∨
    (opField w = 2 ∧ w.extractLsb' 3 57 = 0 ∧ i = .cancel (slotField w)) ∨
    (opField w = 3 ∧ w.extractLsb' 12 48 = 0 ∧ i = .setAngle (chField w) (angField w)) ∨
    (opField w = 4 ∧ w.extractLsb' 0 60 = 0 ∧ i = .readTick) ∨
    (opField w = 5 ∧ w.extractLsb' 0 60 = 0 ∧ i = .cbReturn) := by
  constructor
  · intro h
    unfold decodeCommand at h
    split_ifs at h with h1 hr h2 hr h3 hr h4 hr h5 hr <;> cases h
    · exact .inl ⟨h1, not_not.1 hr, rfl⟩
    · exact .inr (.inl ⟨h2, not_not.1 hr, rfl⟩)
    · exact .inr (.inr (.inl ⟨h3, not_not.1 hr, rfl⟩))
    · exact .inr (.inr (.inr (.inl ⟨h4, not_not.1 hr, rfl⟩)))
    · exact .inr (.inr (.inr (.inr ⟨h5, not_not.1 hr, rfl⟩)))
  · rintro (⟨hop, hr, rfl⟩ | ⟨hop, hr, rfl⟩ | ⟨hop, hr, rfl⟩ | ⟨hop, hr, rfl⟩ | ⟨hop, hr, rfl⟩) <;>
      simp [decodeCommand, hop, hr]

/-- Which codes the decoder accepts (R106). -/
theorem decodeEvent_eq_ok_iff (code : EventCode) (i : Instr) : decodeEvent code = .ok i ↔
    (code = 0x01 ∧ i = .tickIrq) ∨ (code = 0x02 ∧ i = .servoOvfIrq) ∨ (code = 0x03 ∧ i = .servoCmpIrq) := by
  constructor
  · intro h
    unfold decodeEvent at h
    split_ifs at h with h1 h2 h3 <;> cases h
    · exact .inl ⟨h1, rfl⟩
    · exact .inr (.inl ⟨h2, rfl⟩)
    · exact .inr (.inr ⟨h3, rfl⟩)
  · rintro (⟨rfl, rfl⟩ | ⟨rfl, rfl⟩ | ⟨rfl, rfl⟩) <;> rfl

theorem decodeCommand_eq_ok_iff_encode (w : CmdWord) (i : Instr) :
    decodeCommand w = .ok i ↔ encode i = .command w := by
  rw [decodeCommand_eq_ok_iff]
  cases i with
  | register fn rpt ivl =>
    simp [encode_register, registerWord_eq_iff, eq_comm (a := fn), eq_comm (a := rpt), eq_comm (a := ivl)]
  | cancel k => simp [encode_cancel, cancelWord_eq_iff, eq_comm (a := k)]
  | setAngle c a => simp [encode_setAngle, setAngleWord_eq_iff, eq_comm (a := c), eq_comm (a := a)]
  | readTick => simp [encode_readTick, bareWord_eq_iff]
  | cbReturn => simp [encode_cbReturn, bareWord_eq_iff]
  | tickIrq | servoOvfIrq | servoCmpIrq => simp [encode]

theorem decodeEvent_eq_ok_iff_encode (code : EventCode) (i : Instr) :
    decodeEvent code = .ok i ↔ encode i = .event code := by
  rw [decodeEvent_eq_ok_iff]
  cases i <;> simp [encode, eq_comm]

/-- Bits decode to an instruction exactly when they are its encoding. -/
theorem decode_eq_ok_iff (x : Wire) (i : Instr) : decode x = .ok i ↔ encode i = x := by
  cases x with
  | command w => exact decodeCommand_eq_ok_iff_encode w i
  | event code => exact decodeEvent_eq_ok_iff_encode code i

/-- Settles O7: one direction of the equivalence of decoding and encoding. -/
theorem decodeInvertsEncode : Obligations.DecodeInvertsEncode :=
  fun i => (decode_eq_ok_iff _ i).2 rfl

/-- Settles O8: the other direction. -/
theorem encodeInvertsDecode : Obligations.EncodeInvertsDecode :=
  fun x i => (decode_eq_ok_iff x i).1

/-! ### Bits that are no instruction -/

/-- The counterpart of `step_of_decode`: a move whose bits are refused comes to what their rejection comes to. -/
theorem step_of_decode_error {s : State} {x : Wire} {rest : List Move} {r : Reject}
    (hm : s.moves = .wire x :: rest) (hd : decode x = .error r) : step s = rejected r { s with moves := rest } := by
  simp only [step, nextMove, hm, takeMove, takeWire, hd]

theorem decodeCommand_ne_noSuchEvent (w : CmdWord) (code : EventCode) :
    decodeCommand w ≠ .error (.noSuchEvent code) := by
  unfold decodeCommand
  split_ifs <;> simp

theorem State.illegalCommand_eq_answered (s : State) : s.illegalCommand = s.answered 0x5000000000000000 := rfl

/-- An illegal command word is answered ILLEGAL_COMMAND, and nothing else happens (R98, R99, R105). -/
theorem step_of_illegal {s : State} {w : CmdWord} {rest : List Move} (hm : s.moves = .wire (.command w) :: rest)
    (hd : ∀ i, decode (.command w) ≠ .ok i) : step s = .next (State.illegalCommand { s with moves := rest }) := by
  cases h : decode (.command w) with
  | ok i => exact absurd h (hd i)
  | error r =>
    rw [step_of_decode_error hm h]
    cases r with
    | reservedOp | reservedBits => rfl
    | noSuchEvent code => exact absurd h (decodeCommand_ne_noSuchEvent w code)

theorem eq_cancel_slotField_iff (w : CmdWord) (i : Instr) :
    i = .cancel (slotField w) ↔ ∃ k : SlotIx, k.val = (w.extractLsb' 0 3).toNat ∧ i = .cancel k :=
  ⟨fun h => ⟨_, rfl, h⟩, fun ⟨_, hk, h⟩ => h.trans (congrArg _ (Fin.ext hk))⟩

/-- Settles O3: the decoder's cases are the rule's, and any other word is illegal. -/
theorem decoderFollowsTheRule : Obligations.DecoderFollowsTheRule := by
  refine ⟨fun w i => ?_, fun s w rest hm hd => step_of_illegal hm hd⟩
  rw [← eq_cancel_slotField_iff]
  exact decodeCommand_eq_ok_iff w i

theorem opField_of_decode {w : CmdWord} {i : Instr} (h : decode (.command w) = .ok i) :
    1 ≤ (opField w).toNat ∧ (opField w).toNat ≤ 5 := by
  obtain ⟨hop, -⟩ | ⟨hop, -⟩ | ⟨hop, -⟩ | ⟨hop, -⟩ | ⟨hop, -⟩ := (decodeCommand_eq_ok_iff w i).1 h <;> simp [hop]

/-- Settles O5: a word that decodes has an opcode in 1..5. -/
theorem reservedOpcodesAnswerIllegal : Obligations.ReservedOpcodesAnswerIllegal := by
  intro s w rest hm hop
  refine step_of_illegal hm fun i hd => ?_
  obtain ⟨hlo, hhi⟩ := opField_of_decode hd
  obtain h0 | h6 := hop
  · simp [opField, h0] at hlo
  · exact absurd (h6.trans hhi) (by decide)

/-- Settles O6: under each legal opcode a word that decodes has its reserved bits 0. -/
theorem reservedBitsAnswerIllegal : Obligations.ReservedBitsAnswerIllegal := by
  intro s w rest hm hr
  refine step_of_illegal hm fun i hd => ?_
  have hd := (decodeCommand_eq_ok_iff w i).1 hd
  rw [opField] at hd
  simp only [BitVec.ofNat_eq_ofNat] at hr hd
  obtain ⟨hop, hr⟩ | ⟨hop, hr⟩ | ⟨hop, hr⟩ | ⟨hop, hr⟩ | ⟨hop, hr⟩ := hr <;> simp [hop, hr] at hd

/-! ### The rows of the opcode table -/

theorem tableRow_statement (i : Instr) : Laws.TableRow.Statement i :=
  match i with
  | .register fn rpt ivl => Laws.TableRow.register fn rpt ivl
  | .cancel k => Laws.TableRow.cancel k
  | .setAngle c a => Laws.TableRow.setAngle c a
  | .readTick => Laws.TableRow.readTick
  | .cbReturn => Laws.TableRow.cbReturn
  | .tickIrq => Laws.TableRow.tickIrq
  | .servoOvfIrq => Laws.TableRow.servoOvfIrq
  | .servoCmpIrq => Laws.TableRow.servoCmpIrq

theorem exists_row_of_decode {w : CmdWord} {i : Instr} (h : decode (.command w) = .ok i) :
    ∃ r ∈ commandRows, w &&& r.mask = r.pattern := by
  have hrow := tableRow_statement i
  rw [Laws.TableRow.Statement, (decode_eq_ok_iff _ i).1 h] at hrow
  obtain ⟨r, hr, -, hw⟩ := hrow
  exact ⟨r, hr, hw⟩

/-- A field that lies under a mask is the match's. -/
theorem extractLsb'_of_and_eq {w mask pattern : CmdWord} (h : w &&& mask = pattern) (start n : ℕ)
    (hmask : mask.extractLsb' start n = BitVec.allOnes n) : w.extractLsb' start n = pattern.extractLsb' start n := by
  rw [← h, BitVec.extractLsb'_and, hmask, BitVec.and_allOnes]

theorem exists_row_iff (w : CmdWord) : (∃ r ∈ commandRows, w &&& r.mask = r.pattern) ↔
    (w &&& 0xF0000F0000000000 = 0x1000000000000000 ∨ w &&& 0xFFFFFFFFFFFFFFF8 = 0x2000000000000000 ∨
      w &&& 0xFFFFFFFFFFFFF000 = 0x3000000000000000 ∨ w = 0x4000000000000000 ∨ w = 0x5000000000000000) := by
  have hall : w &&& 0xFFFFFFFFFFFFFFFF = w := BitVec.and_allOnes
  simp only [commandRows, List.mem_cons, List.not_mem_nil, or_false, exists_eq_or_imp, exists_eq_left, hall]

/-- Settles O4: an encoding lies in its row, and in a row the opcode and the reserved bits are those of a command. -/
theorem commandIsLegalIffInATableRow : Obligations.CommandIsLegalIffInATableRow := by
  intro w
  constructor
  · rintro ⟨i, hd⟩
    exact (exists_row_iff w).1 (exists_row_of_decode hd)
  · simp only [decode, decodeCommand_eq_ok_iff]
    rintro (h | h | h | rfl | rfl)
    · exact ⟨_, .inl ⟨extractLsb'_of_and_eq h 60 4 (by decide), extractLsb'_of_and_eq h 40 4 (by decide), rfl⟩⟩
    · exact ⟨_, .inr (.inl ⟨extractLsb'_of_and_eq h 60 4 (by decide), extractLsb'_of_and_eq h 3 57 (by decide), rfl⟩)⟩
    · exact ⟨_, .inr (.inr (.inl
        ⟨extractLsb'_of_and_eq h 60 4 (by decide), extractLsb'_of_and_eq h 12 48 (by decide), rfl⟩))⟩
    · exact ⟨_, .inr (.inr (.inr (.inl ⟨by decide, by decide, rfl⟩)))⟩
    · exact ⟨_, .inr (.inr (.inr (.inr ⟨by decide, by decide, rfl⟩)))⟩

/-! ### The assembler -/


theorem assemble_of_wellFormed {a : Asm} (h : a.wellFormed = true) : a.assemble = some a.expand.toInstr :=
  if_pos h

theorem assemble_of_not_wellFormed {a : Asm} (h : ¬a.wellFormed = true) : a.assemble = none :=
  if_neg h

theorem register_wellFormed_iff (fn ivl rpt : ℕ) :
    (Asm.register fn ivl rpt).wellFormed = true ↔ fn ≤ 0xFFFF ∧ ivl ≤ 0xFFFFFFFF ∧ rpt ≤ 255 := by
  simp [Asm.wellFormed, and_assoc]

theorem cancel_wellFormed_iff (k : ℕ) : (Asm.cancel k).wellFormed = true ↔ k ≤ 7 := by
  simp [Asm.wellFormed]

theorem setAngle_wellFormed_iff (ch : ℕ) (a : ℤ) :
    (Asm.setAngle ch a).wellFormed = true ↔ ch ≤ 15 ∧ -128 ≤ a ∧ a ≤ 127 := by
  simp [Asm.wellFormed, and_assoc]

/-- Settles O11: a well-formed line's operands pass into the fields uncut, and an ill-formed line is refused. -/
theorem assembledWordsAreTheFormats : Obligations.AssembledWordsAreTheFormats := by
  refine ⟨fun fn ivl rpt hfn hivl hrpt => ?_, fun k hk => ?_, fun ch a hch hlo hhi => ?_,
    fun fn ivl rpt h => assemble_of_not_wellFormed ?_, fun k h => assemble_of_not_wellFormed ?_,
    fun ch a h => assemble_of_not_wellFormed ?_⟩
  · refine ⟨_, _, assemble_of_wellFormed ((register_wellFormed_iff fn ivl rpt).2 ⟨hfn, hivl, hrpt⟩), rfl, ?_⟩
    refine (toNat_registerWord _ _ _).trans ?_
    simp only [BitVec.toNat_ofNat]
    omega
  · refine ⟨_, _, assemble_of_wellFormed ((cancel_wellFormed_iff k).2 hk), rfl, (toNat_cancelWord _).trans ?_⟩
    exact congrArg (_ + ·) (Nat.mod_eq_of_lt (Nat.lt_succ_of_le hk))
  · refine ⟨_, _, assemble_of_wellFormed ((setAngle_wellFormed_iff ch a).2 ⟨hch, hlo, hhi⟩), rfl, ?_⟩
    refine (congrArg Nat.cast (toNat_setAngleWord _ _)).trans ?_
    simp only [BitVec.toNat_ofNat, BitVec.toNat_ofInt]
    omega
  · rw [register_wellFormed_iff]
    omega
  · rw [cancel_wellFormed_iff]
    omega
  · rw [setAngle_wellFormed_iff]
    omega

theorem wellFormed_expand (a : Asm) : a.expand.wellFormed = a.wellFormed := by
  cases a with
  | periodic | oneshot | servoOff => simp [Asm.expand, Asm.wellFormed]
  | register | cancel | setAngle | readTick | cbReturn => rfl

theorem expand_expand (a : Asm) : a.expand.expand = a.expand := by
  cases a <;> rfl

/-- A line assembles as its expansion (R109), refusals included. -/
theorem assemble_expand (a : Asm) : a.expand.assemble = a.assemble := by
  rw [Asm.assemble, Asm.assemble, wellFormed_expand, expand_expand]

/-- Settles O12: each pseudo-instruction's expansion is the command of its row in R109. -/
theorem pseudoInstructionsExpand : Obligations.PseudoInstructionsExpand :=
  ⟨fun fn ivl => (assemble_expand (.periodic fn ivl)).symm, fun fn ivl => (assemble_expand (.oneshot fn ivl)).symm,
    fun ch => (assemble_expand (.servoOff ch)).symm⟩

/-! ### Responses -/

theorem toNat_respWord (st : Status) (v : BitVec 32) :
    (respWord st v).toNat = (statusCode st).toNat * 2 ^ 60 + v.toNat := by
  simp only [respWord, toNat_append_eq_add, BitVec.toNat_ofNat]
  omega

theorem respWord_status (st : Status) (v : BitVec 32) : (respWord st v).extractLsb' 60 4 = statusCode st := by
  rw [extractLsb'_eq_iff, toNat_respWord]
  omega

theorem respWord_middle (st : Status) (v : BitVec 32) : (respWord st v).extractLsb' 32 28 = 0 := by
  simp only [extractLsb'_eq_iff, toNat_respWord, BitVec.ofNat_eq_ofNat, BitVec.toNat_ofNat]
  omega

theorem respWord_value (st : Status) (v : BitVec 32) : (respWord st v).extractLsb' 0 32 = v := by
  rw [extractLsb'_eq_iff, toNat_respWord]
  omega

theorem statusCode_le (st : Status) : (statusCode st).toNat ≤ 6 := by
  cases st <;> decide

/-- Settles O13: the fields of the concatenation, and the codes by definition. -/
theorem responseWordLayout : Obligations.ResponseWordLayout :=
  ⟨fun st v => ⟨respWord_status st v, respWord_middle st v, respWord_value st v⟩, rfl, rfl, rfl, rfl, rfl, rfl, rfl⟩

/-- An instruction that a command word carries presents one response, whatever it does. -/
theorem exec_command_responds {i : Instr} {w : CmdWord} {s t : State} (hi : encode i = .command w)
    (h : exec i s = .next t) : ∃ st v, t.outputs = s.outputs ++ [.response (respWord st v)] := by
  cases exec_effect h with
  | answered st v => exact ⟨st, v, rfl⟩
  | registered k => exact ⟨.ok, slotValue k, by simp⟩
  | cancelled | commanded | returned => exact ⟨.ok, 0, by simp⟩
  | ticked | fired | cycled | pulsed | matched => cases hi
  | blocked he => cases hi.symm.trans he

theorem step_command_responds {s : State} {w : CmdWord} {rest : List Move} (hm : s.moves = .wire (.command w) :: rest) :
    ∃ t st v, step s = .next t ∧ t.moves = rest ∧ t.outputs = s.outputs ++ [.response (respWord st v)] := by
  by_cases hd : ∃ i, decode (.command w) = .ok i
  · obtain ⟨i, hd⟩ := hd
    obtain ⟨t, ht⟩ := exec_answers_next i { s with moves := rest }
    obtain ⟨st, v, hout⟩ := exec_command_responds ((decode_eq_ok_iff _ i).1 hd) ht
    exact ⟨t, st, v, (step_of_decode hm hd).trans ht, exec_moves ht, hout⟩
  · exact ⟨_, _, _, step_of_illegal hm (not_exists.1 hd), rfl, rfl⟩

/-- Settles O14: the step's one response is a response word, whose status is one of the seven. -/
theorem everyCommandAnswersOnce : Obligations.EveryCommandAnswersOnce := by
  intro s w rest hm
  obtain ⟨t, st, v, hs, hmoves, hout⟩ := step_command_responds hm
  refine ⟨t, _, hs, hmoves, hout, respWord_middle st v, ?_⟩
  rw [respWord_status]
  exact statusCode_le st

/-! ### Words and codes written out -/

/-- Settles O9: each word is the encoding of its instruction. -/
theorem wordsOfTheFormatTablesDecode : Obligations.WordsOfTheFormatTablesDecode := by
  unfold Obligations.WordsOfTheFormatTablesDecode
  simp only [decode_eq_ok_iff]
  decide

/-- Settles O10: the event decoder's cases; an event's encoding is a code and no command word. -/
theorem eventCodesNameThreeEvents : Obligations.EventCodesNameThreeEvents := by
  refine ⟨decodeEvent_eq_ok_iff, fun s code rest hm h1 h2 h3 => ?_, fun w i hd => ?_⟩
  · have hd : decode (.event code) = .error (.noSuchEvent code) := by
      rw [decode, decodeEvent, if_neg h1, if_neg h2, if_neg h3]
    exact step_of_decode_error hm hd
  · have hi := (decode_eq_ok_iff _ i).1 hd
    refine ⟨?_, ?_, ?_⟩ <;> rintro rfl <;> cases hi

end Sys2Proof.Machine
end

section
/-!
PROOFS. The agenda family (40_agenda.md): REGISTER and its rejections, CANCEL, READ_TICK, CB_RETURN and TICK_IRQ, each
with its frame; then a slot's firings across a run, counted against its limit or waited for at its due tick.
-/

namespace Sys2Proof.Machine

/-! ### The lowest free slot -/

@[simp] theorem maskBit_full (i : SlotIx) : maskBit 0xFF#8 i = true := by
  revert i
  decide

theorem lowestFree_eq_some_iff (m : BitVec 8) (i : SlotIx) :
    lowestFree m = some i ↔ maskBit m i = false ∧ ∀ j : SlotIx, j < i → maskBit m j = true := by
  simp [lowestFree, slotOrder_find?_eq_some]

theorem lowestFree_eq_none_iff (m : BitVec 8) : lowestFree m = none ↔ m = 0xFF := by
  simp only [lowestFree, slotOrder_find?_eq_none, Bool.not_eq_false']
  exact ⟨fun h => mask_ext fun i => (h i).trans (maskBit_full i).symm, fun h => h ▸ maskBit_full⟩

/-- Settles O18: the first clear bit in index order is the least one. -/
theorem lowestFreeIsTheLeast : Obligations.LowestFreeIsTheLeast := by
  refine fun m => ⟨fun i => ?_, lowestFree_eq_none_iff m⟩
  rw [lowestFree_eq_some_iff]
  refine and_congr_right fun _ => forall_congr' fun j => ?_
  rw [← not_lt, imp_not_comm, Bool.not_eq_false]
  rfl

/-! ### Frames of the slot table's operations -/

theorem State.occupy_sameServo (s : State) (i : SlotIx) (fn : Handle) (rpt : Count) (ivl : Tick) :
    SameServo s (s.occupy i fn rpt ivl) := by
  refine ⟨⟨?_, ?_, ?_⟩, ?_, ?_, ?_, ?_, ?_, ?_, ?_, ?_⟩ <;> simp

theorem State.deactivate_sameServo (s : State) (i : SlotIx) : SameServo s (s.deactivate i) := by
  refine ⟨⟨?_, ?_, ?_⟩, ?_, ?_, ?_, ?_, ?_, ?_, ?_, ?_⟩ <;> simp

theorem State.countTick_fireSlot_sameServo (s : State) (i : SlotIx) : SameServo s (s.countTick.fireSlot i) := by
  refine ⟨⟨?_, ?_, ?_⟩, ?_, ?_, ?_, ?_, ?_, ?_, ?_, ?_⟩ <;> simp [State.fireSlot]

/-! ### REGISTER -/

theorem exec_register_of_free {s : State} {ivl : Tick} {i : SlotIx} (hivl : ivl ≠ 0)
    (hi : lowestFree s.activeMask = some i) (fn : Handle) (rpt : Count) :
    exec (.register fn rpt ivl) s = .next ((s.occupy i fn rpt ivl).respond .ok (slotValue i)) := by
  obtain ⟨hz, -⟩ | ⟨-, hn, -⟩ | ⟨k, -, hk, e⟩ := execRegister_cases fn rpt ivl s
  · exact absurd hz hivl
  · cases hi.symm.trans hn
  · cases hi.symm.trans hk
    exact e

theorem exec_register_of_full {s : State} {ivl : Tick} (hivl : ivl ≠ 0) (hfull : s.activeMask = 0xFF) (fn : Handle)
    (rpt : Count) : exec (.register fn rpt ivl) s = .next (s.respond .schedulerFull 0) := by
  obtain ⟨hz, -⟩ | ⟨-, -, e⟩ | ⟨k, -, hk, -⟩ := execRegister_cases fn rpt ivl s
  · exact absurd hz hivl
  · exact e
  · cases hk.symm.trans ((lowestFree_eq_none_iff _).2 hfull)

/-- Settles O17: the interval is checked before the table. -/
theorem registerRejections : Obligations.RegisterRejections :=
  fun _ fn rpt => ⟨rfl, fun _ hivl hfull => exec_register_of_full hivl hfull fn rpt⟩

/-- The table after a registration, slot by slot (R129). -/
theorem State.occupy_slot (s : State) (i j : SlotIx) (fn : Handle) (rpt : Count) (ivl : Tick) :
    (s.occupy i fn rpt ivl).slot j = if j = i then newSlot s.tick fn rpt ivl else s.slot j := by
  rw [← State.slot_setSlot]
  exact State.slot_congr (by simp) j

theorem State.occupy_slot_self (s : State) (i : SlotIx) (fn : Handle) (rpt : Count) (ivl : Tick) :
    (s.occupy i fn rpt ivl).slot i = newSlot s.tick fn rpt ivl :=
  (s.occupy_slot i i fn rpt ivl).trans (if_pos rfl)

theorem State.occupy_tickPeriod (s : State) (i : SlotIx) (fn : Handle) (rpt : Count) (ivl : Tick) :
    (s.occupy i fn rpt ivl).tickPeriod = if s.agendaRunning = false then s.cfg.tickPeriod else s.tickPeriod := by
  unfold State.occupy State.armAgendaIfIdle
  cases h : s.agendaRunning <;> simp [h]

theorem State.occupy_tickPf (s : State) (i : SlotIx) (fn : Handle) (rpt : Count) (ivl : Tick) :
    (s.occupy i fn rpt ivl).tickPf = if s.agendaRunning = false then false else s.tickPf := by
  unfold State.occupy State.armAgendaIfIdle
  cases h : s.agendaRunning <;> simp [h]

/-- Arming sets `gie` when an idle agenda is armed in normal context, and otherwise leaves it (R123). -/
theorem State.occupy_gie_eq_ite (s : State) (i : SlotIx) (fn : Handle) (rpt : Count) (ivl : Tick) :
    (s.occupy i fn rpt ivl).gie = if s.agendaRunning = false ∧ s.ctx = .normal then true else s.gie := by
  simp only [State.occupy_gie, ← inNormal_iff]
  cases s.agendaRunning <;> cases inNormal s <;> simp

theorem respWord_ok_slotValue (i : SlotIx) : respWord .ok (slotValue i) = BitVec.ofNat 64 i.val := by
  revert i
  decide

theorem dueTime_toNat (tick ivl : Tick) : (dueTime tick ivl).toNat = (tick.toNat + ivl.toNat) % 2 ^ 32 :=
  BitVec.toNat_ofNat _ _

/-- Settles O16: the registration of the least free slot, field by field. -/
theorem registerTakesTheLowestFreeSlot : Obligations.RegisterTakesTheLowestFreeSlot := by
  intro s fn rpt ivl i hivl hfree hlow
  have hself : (s.occupy i fn rpt ivl).slots[i] = newSlot s.tick fn rpt ivl := s.occupy_slot_self i fn rpt ivl
  refine ⟨_, exec_register_of_free hivl ((lowestFree_eq_some_iff _ i).2 ⟨hfree, hlow⟩) fn rpt, ?_⟩
  simp only [State.respond_slots, hself]
  refine ⟨rfl, rfl, rfl, rfl, dueTime_toNat _ _, fun j hj => (s.occupy_slot i j fn rpt ivl).trans (if_neg hj),
    fun j => ?_, s.occupy_agendaRunning .., s.occupy_gie_eq_ite .., s.occupy_tickPeriod .., s.occupy_tickPf .., ?_,
    s.occupy_tick .., s.occupy_tickCount .., s.occupy_ctx .., { s.occupy_sameServo i fn rpt ivl with },
    ⟨s.occupy_cfg .., s.occupy_moves ..⟩⟩
  · rw [State.respond_activeMask, State.occupy_activeMask]
    exact maskBit_maskSet _ _ _
  · rw [State.respond_outputs, State.occupy_outputs, respWord_ok_slotValue]

/-- Settles O20: the wrapped due time lies below the current tick, which the next tick does not wrap. -/
theorem wrappedDueTimeIsDueAtOnce : Obligations.WrappedDueTimeIsDueAtOnce := by
  intro s t fn rpt ivl i hivl hfree hlow hwrap hlast h
  cases h.symm.trans (exec_register_of_free hivl ((lowestFree_eq_some_iff _ i).2 ⟨hfree, hlow⟩) fn rpt)
  have hself : (s.occupy i fn rpt ivl).slots[i] = newSlot s.tick fn rpt ivl := s.occupy_slot_self i fn rpt ivl
  have hdue : (newSlot s.tick fn rpt ivl).nextDue.toNat = s.tick.toNat + ivl.toNat - 2 ^ 32 := by
    refine (dueTime_toNat _ _).trans ?_
    omega
  have hnext : (s.tick + 1).toNat = s.tick.toNat + 1 := by
    bv_omega
  have hactive : maskBit (maskSet s.activeMask i) i = true := by
    simp
  unfold DueAt
  simp only [State.respond_slots, State.respond_activeMask, State.respond_tick, State.occupy_activeMask,
    State.occupy_tick, hself, hdue, hnext, true_and]
  refine ⟨hactive, by omega, ?_⟩
  obtain ⟨-, hcount⟩ := newSlot_live hivl s.tick fn rpt
  exact or_iff_not_imp_left.2 hcount

/-! ### CANCEL -/

theorem exec_cancel_of_active {s : State} {k : SlotIx} (hk : s.active k = true) :
    exec (.cancel k) s = .next ((s.deactivate k).respond .ok 0) := by
  simp [exec, execCancel, hk]

theorem exec_cancel_of_inactive {s : State} {k : SlotIx} (hk : s.active k = false) :
    exec (.cancel k) s = .next (s.respond .ok 0) := by
  simp [exec, execCancel, hk]

/-- Settles O21: an active slot's bit is cleared, and an inactive slot's already is. -/
theorem cancelFreesTheSlot : Obligations.CancelFreesTheSlot := by
  intro s k
  cases hk : s.active k with
  | true =>
    refine ⟨_, exec_cancel_of_active hk, fun j => ?_, ?_, ?_, s.deactivate_slots k, s.deactivate_tick k,
      s.deactivate_tickPeriod k, s.deactivate_tickCount k, s.deactivate_tickPf k,
      ⟨s.deactivate_ctx k, s.deactivate_gie k⟩, { s.deactivate_sameServo k with },
      ⟨s.deactivate_cfg k, s.deactivate_moves k⟩⟩
    · rw [State.respond_activeMask, State.deactivate_activeMask, Bool.and_comm]
      exact maskBit_maskClear _ _ _
    · have hbit : s.activeMask.getLsbD k.val = true := hk
      by_cases hz : maskClear s.activeMask k = 0#8 <;> simp [hbit, hz]
    · rw [State.respond_outputs, State.deactivate_outputs]
      rfl
  | false =>
    have hbit : s.activeMask.getLsbD k.val = false := hk
    refine ⟨_, exec_cancel_of_inactive hk, fun j => ?_,
      (if_neg fun ⟨h, _⟩ => Bool.false_ne_true (hbit.symm.trans h)).symm, rfl, rfl, rfl, rfl, rfl, rfl, ⟨rfl, rfl⟩,
      ⟨⟨rfl, rfl, rfl⟩, rfl, rfl, rfl, rfl, rfl, rfl, rfl, rfl⟩, ⟨rfl, rfl⟩⟩
    by_cases hj : j = k
    · subst hj
      rw [State.respond_activeMask, hbit, Bool.false_and]
    · simp [hj]

/-- Settles O22: the first CANCEL leaves the slot inactive, and an inactive slot is left as it is. -/
theorem cancelTwiceIsCancelOnce : Obligations.CancelTwiceIsCancelOnce := by
  intro s t k h
  obtain ⟨t', ht', hbits, -⟩ := cancelFreesTheSlot s k
  cases h.symm.trans ht'
  refine exec_cancel_of_inactive ((hbits k).trans ?_)
  simp

/-- Settles O19: in a full table the cancelled slot is the only free one. -/
theorem ninthRegistrationFails : Obligations.NinthRegistrationFails := by
  intro s fn rpt ivl k hfull hivl
  have hactive : s.active k = true := by
    rw [State.active, hfull]
    exact maskBit_full k
  have hmask : ((s.deactivate k).respond .ok 0).activeMask = maskClear 0xFF k := by
    rw [State.respond_activeMask, State.deactivate_activeMask, hfull]
  have hfree : lowestFree (maskClear 0xFF k) = some k := by
    rw [lowestFree_eq_some_iff]
    refine ⟨by simp, fun j hj => ?_⟩
    simp [hj.ne]
  refine ⟨exec_register_of_full hivl hfull fn rpt, _, _, exec_cancel_of_active hactive, by rw [hmask, hfree],
    exec_register_of_free hivl (by rw [hmask, hfree]) fn rpt, ?_, ?_, ?_⟩
  · rw [State.respond_outputs, State.occupy_outputs, respWord_ok_slotValue]
  · exact congrArg Slot.fn (State.occupy_slot_self _ k fn rpt ivl)
  · rw [State.respond_activeMask, State.occupy_activeMask, hmask]
    refine mask_ext fun j => ?_
    by_cases hj : j = k <;> simp [hj]

/-! ### READ_TICK, CB_RETURN -/

/-- Settles O23: the value field of the response holds the whole counter. -/
theorem readTickAnswersTheCounter : Obligations.ReadTickAnswersTheCounter :=
  fun s => ⟨respWord .ok s.tick, rfl, by simp [toNat_respWord, statusCode]⟩

/-- Settles O24: by the context. -/
theorem cbReturnLeavesTheCallback : Obligations.CbReturnLeavesTheCallback := by
  refine fun s => ⟨fun k hk => ?_, fun hn => ?_⟩
  · have hin : inNormal s = false := by
      simp [inNormal, hk]
    simp only [exec, execCbReturn, hin]
    rfl
  · simp only [exec, execCbReturn, (inNormal_iff s).2 hn]
    rfl

/-! ### Interrupts in a callback -/

/-- Settles O43: a conjunct of the invariant; an instruction that writes `gie` writes 1. -/
theorem interruptsAreEnabledInCallbacks : Obligations.InterruptsAreEnabledInCallbacks := by
  refine ⟨fun s k hs hk => hs.inv.gie (by simp [hk]), fun i s t h hg => ?_⟩
  obtain hsame | ⟨-, ht, -⟩ := exec_gie h
  · exact hsame.trans hg
  · exact ht

/-! ### TICK_IRQ -/

theorem countTick_scan_eq_some_iff (s : State) (i : SlotIx) :
    s.countTick.scan = some i ↔ DueAt s (s.tick + 1) i ∧ ∀ j : SlotIx, j < i → ¬DueAt s (s.tick + 1) j := by
  simp only [State.scan_eq_some, ← Bool.not_eq_true, State.eligible_iff]
  rfl

theorem countTick_scan_eq_none_iff (s : State) :
    s.countTick.scan = none ↔ ∀ j : SlotIx, ¬DueAt s (s.tick + 1) j := by
  simp only [State.scan_eq_none, ← Bool.not_eq_true, State.eligible_iff]
  rfl

theorem exec_tickIrq_of_scan_none {s : State} (hg : gateTick s = true) (hn : s.countTick.scan = none) :
    exec .tickIrq s = .next s.countTick := by
  simp only [exec, execTickIrq, hg, if_true, State.tickHandler, hn]

theorem exec_tickIrq_of_scan_some {s : State} {i : SlotIx} (hg : gateTick s = true) (hi : s.countTick.scan = some i) :
    exec .tickIrq s = .next (s.countTick.fireSlot i) := by
  simp only [exec, execTickIrq, hg, if_true, State.tickHandler, hi]

theorem ofNat_tick_succ (tick : Tick) : BitVec.ofNat 32 (tick.toNat + 1) = tick + 1 := by
  simp [BitVec.ofNat_add]

/-- Settles O25: the scan finds no slot. -/
theorem tickWithNoDueSlotOnlyCounts : Obligations.TickWithNoDueSlotOnlyCounts := by
  intro s hr hg hn hdue
  rw [ofNat_tick_succ] at hdue ⊢
  exact exec_tickIrq_of_scan_none ((gateTick_iff s).2 ⟨hr, hg, hn⟩) ((countTick_scan_eq_none_iff s).2 hdue)

/-! ### A firing, case by case -/

theorem State.fireSlot_slot (s : State) (i j : SlotIx) : (s.fireSlot i).slot j = (s.fireUpdate i).slot j := rfl

theorem State.fireSlot_activeMask (s : State) (i : SlotIx) :
    (s.fireSlot i).activeMask = (s.fireUpdate i).activeMask := rfl

theorem State.fireSlot_agendaRunning (s : State) (i : SlotIx) :
    (s.fireSlot i).agendaRunning = (s.fireUpdate i).agendaRunning := rfl

theorem State.fireSlot_tick (s : State) (i : SlotIx) : (s.fireSlot i).tick = s.tick :=
  s.fireUpdate_tick i

/-- A slot that fires forever keeps its count and advances (R135). -/
theorem State.fireSlot_of_forever {s : State} {i : SlotIx} (h : (s.slot i).repeatLimit = 0) :
    (s.fireSlot i).slot i = (s.slot i).advance s.tick ∧ (s.fireSlot i).activeMask = s.activeMask ∧
      (s.fireSlot i).agendaRunning = s.agendaRunning := by
  have e : s.fireUpdate i = s.setSlot i ((s.slot i).advance s.tick) := if_pos h
  rw [State.fireSlot_slot, State.fireSlot_activeMask, State.fireSlot_agendaRunning, e]
  exact ⟨s.slot_setSlot_self i _, rfl, rfl⟩

/-- A slot with firings left after this one counts and advances (R135). -/
theorem State.fireSlot_of_counting {s : State} {i : SlotIx}
    (h : (s.slot i).firedCount.toNat + 1 < (s.slot i).repeatLimit.toNat) :
    (s.fireSlot i).slot i = Slot.advance { s.slot i with firedCount := (s.slot i).firedCount + 1 } s.tick ∧
      (s.fireSlot i).activeMask = s.activeMask ∧ (s.fireSlot i).agendaRunning = s.agendaRunning := by
  have hlimit : (s.slot i).repeatLimit ≠ 0 := by bv_omega
  have hne : (s.slot i).firedCount + 1 ≠ (s.slot i).repeatLimit := by bv_omega
  have e : s.fireUpdate i =
      s.setSlot i (Slot.advance { s.slot i with firedCount := (s.slot i).firedCount + 1 } s.tick) :=
    (if_neg hlimit).trans (if_neg hne)
  rw [State.fireSlot_slot, State.fireSlot_activeMask, State.fireSlot_agendaRunning, e]
  exact ⟨s.slot_setSlot_self i _, rfl, rfl⟩

/-- A slot that fires for the last time has its limit for its count and becomes inactive (R135, R124). -/
theorem State.fireSlot_of_exhausting {s : State} {i : SlotIx}
    (h : (s.slot i).firedCount.toNat + 1 = (s.slot i).repeatLimit.toNat) :
    (s.fireSlot i).slot i = { s.slot i with firedCount := (s.slot i).repeatLimit } ∧
      (s.fireSlot i).activeMask = maskClear s.activeMask i ∧
      (s.fireSlot i).agendaRunning = (s.agendaRunning && (maskClear s.activeMask i != 0#8)) := by
  have hlimit : (s.slot i).repeatLimit ≠ 0 := by bv_omega
  have hcount : (s.slot i).firedCount + 1 = (s.slot i).repeatLimit := by bv_omega
  have e : s.fireUpdate i = (s.setSlot i { s.slot i with firedCount := (s.slot i).firedCount + 1 }).deactivate i :=
    (if_neg hlimit).trans (if_pos hcount)
  rw [State.fireSlot_slot, State.fireSlot_activeMask, State.fireSlot_agendaRunning, e, hcount,
    State.deactivate_activeMask, State.deactivate_agendaRunning, State.deactivate_setSlot]
  exact ⟨State.slot_setSlot_self _ i _, rfl, rfl⟩

/-- A firing leaves every other slot as it was, and registered if it was (R135). -/
theorem State.fireSlot_of_ne {s : State} {i j : SlotIx} (hj : j ≠ i) :
    (s.fireSlot i).slot j = s.slot j ∧ (s.fireSlot i).active j = s.active j := by
  rw [State.fireSlot_slot, State.active, State.fireSlot_activeMask]
  obtain ⟨-, e⟩ | ⟨-, -, e⟩ | ⟨-, -, e⟩ := s.fireUpdate_cases i <;> rw [e]
  · exact ⟨by rw [State.slot_setSlot, if_neg hj], rfl⟩
  · exact ⟨by rw [State.slot_setSlot, if_neg hj], rfl⟩
  · refine ⟨?_, by simp [State.active, hj]⟩
    rw [State.deactivate_setSlot, State.slot_setSlot, if_neg hj]
    exact State.slot_congr (s.deactivate_slots i) j

/-- A firing leaves the slot's own registration as it was (R246). -/
theorem State.fireSlot_registration (s : State) (i : SlotIx) :
    ((s.fireSlot i).slot i).fn = (s.slot i).fn ∧ ((s.fireSlot i).slot i).interval = (s.slot i).interval ∧
      ((s.fireSlot i).slot i).repeatLimit = (s.slot i).repeatLimit := by
  rw [State.fireSlot_slot]
  obtain ⟨-, e⟩ | ⟨-, -, e⟩ | ⟨-, -, e⟩ := s.fireUpdate_cases i <;> rw [e]
  · rw [State.slot_setSlot_self]
    exact ⟨rfl, rfl, rfl⟩
  · rw [State.slot_setSlot_self]
    exact ⟨rfl, rfl, rfl⟩
  · rw [State.deactivate_setSlot, State.slot_setSlot_self]
    exact ⟨rfl, rfl, rfl⟩

theorem toNat_add_one_of_lt {w : ℕ} {c limit : BitVec w} (h : c.toNat + 1 < limit.toNat) :
    (c + 1).toNat = c.toNat + 1 := by
  have hone := Nat.mod_eq_of_lt (h.trans limit.isLt)
  rwa [BitVec.toNat_add, BitVec.ofNat_eq_ofNat, BitVec.toNat_ofNat, Nat.add_mod_mod]

/-- Settles O26: the scan finds slot `i`, and its update is one of three. -/
theorem tickFiresTheLowestDueSlot : Obligations.TickFiresTheLowestDueSlot := by
  intro s i hr hg hn hdue hlow
  simp only [ofNat_tick_succ] at hdue hlow
  have hexec := exec_tickIrq_of_scan_some ((gateTick_iff s).2 ⟨hr, hg, hn⟩)
    ((countTick_scan_eq_some_iff s i).2 ⟨hdue, hlow⟩)
  have htick : (s.countTick.fireSlot i).tick = s.tick + 1 := s.countTick.fireSlot_tick i
  obtain ⟨hfn, hivl, hlimit⟩ := s.countTick.fireSlot_registration i
  refine ⟨_, hexec, ?_, by simp [State.fireSlot], s.countTick.fireSlot_outputs i, s.countTick.fireSlot_ctx i,
    fun j hj => (State.fireSlot_of_ne hj).1, hfn, hivl, hlimit, fun hz => ?_, fun _ hlt => ?_, fun _ he => ?_,
    by simp [State.fireSlot], by simp [State.fireSlot], by simp [State.fireSlot], s.countTick_fireSlot_sameServo i,
    ⟨by simp [State.fireSlot], by simp [State.fireSlot]⟩⟩
  · rw [htick, BitVec.toNat_add]
    rfl
  · obtain ⟨hslot, hmask, hrun⟩ := State.fireSlot_of_forever (s := s.countTick) (i := i) hz
    refine ⟨(congrArg Slot.firedCount hslot :), ?_, hmask, hrun.trans hr⟩
    rw [htick]
    exact (congrArg (BitVec.toNat ∘ Slot.nextDue) hslot).trans (dueTime_toNat _ _)
  · obtain ⟨hslot, hmask, hrun⟩ := State.fireSlot_of_counting (s := s.countTick) (i := i) hlt
    refine ⟨(congrArg (BitVec.toNat ∘ Slot.firedCount) hslot).trans ?_, ?_, hmask, hrun.trans hr⟩
    · exact toNat_add_one_of_lt hlt
    · rw [htick]
      exact (congrArg (BitVec.toNat ∘ Slot.nextDue) hslot).trans (dueTime_toNat _ _)
  · obtain ⟨hslot, hmask, hrun⟩ := State.fireSlot_of_exhausting (s := s.countTick) (i := i) he
    refine ⟨(congrArg Slot.firedCount hslot :), (congrArg Slot.nextDue hslot :), fun j => ?_, ?_⟩
    · rw [hmask, Bool.and_comm]
      exact maskBit_maskClear _ _ _
    · rw [hrun, hmask, State.countTick_agendaRunning, hr]
      simp

theorem dueAt_congr {s t : State} {n : Tick} {j : SlotIx} (hslot : t.slot j = s.slot j)
    (hactive : t.active j = s.active j) : DueAt t n j ↔ DueAt s n j := by
  simp only [State.slot, State.active, maskBit] at hslot hactive
  simp only [DueAt, hslot, hactive]

/-- Settles O27: a due slot that the scan passes over has a higher index, and a firing leaves it as it was. -/
theorem delayedSlotsStayDue : Obligations.DelayedSlotsStayDue := by
  intro s t i j fn h hf hj hdue
  cases exec_effect h with
  | fired k _ hk =>
    rw [State.fireSlot_outputs] at hf
    obtain ⟨rfl, -⟩ : k = i ∧ _ := by simpa using hf
    rw [State.fireSlot_tick] at hdue ⊢
    obtain ⟨hslot, hactive⟩ := State.fireSlot_of_ne (s := s.countTick) hj
    obtain ⟨-, hlow⟩ := (countTick_scan_eq_some_iff s k).1 hk
    refine ⟨lt_of_le_of_ne (not_lt.1 fun hlt => hlow j hlt hdue) hj.symm, ?_, hslot⟩
    exact (dueAt_congr hslot hactive).2 hdue
  | answered st v he => cases he
  | ticked | blocked => simp at hf

/-! ### A slot's firings against its limit -/

/-- How many of its firings slot `i` has had: its fired count while it is active, and all of them once it is not
(R37, R137). -/
def State.firingsHad (s : State) (i : SlotIx) : Nat :=
  if s.active i then (s.slot i).firedCount.toNat else (s.slot i).repeatLimit.toNat

/-- From `s` to `t` slot `i` keeps its repeat limit, and what it has had grows by the firings presented. -/
def FiringsCounted (i : SlotIx) (s t : State) : Prop :=
  (t.slot i).repeatLimit = (s.slot i).repeatLimit ∧
    ∃ new, t.outputs = s.outputs ++ new ∧ s.firingsHad i + firesOf i new = t.firingsHad i

theorem State.firingsHad_of_active {s : State} {i : SlotIx} (h : s.active i = true) :
    s.firingsHad i = (s.slot i).firedCount.toNat :=
  if_pos h

theorem State.firingsHad_of_inactive {s : State} {i : SlotIx} (h : s.active i = false) :
    s.firingsHad i = (s.slot i).repeatLimit.toNat := by
  simp [State.firingsHad, h]

theorem FiringsCounted.trans {i : SlotIx} {s t u : State} (hst : FiringsCounted i s t) (htu : FiringsCounted i t u) :
    FiringsCounted i s u := by
  obtain ⟨hlt, a, hta, ha⟩ := hst
  obtain ⟨hlu, b, hub, hb⟩ := htu
  refine ⟨hlu.trans hlt, a ++ b, by rw [hub, hta, List.append_assoc], ?_⟩
  rw [← hb, ← ha, firesOf, List.countP_append, Nat.add_assoc]
  rfl

/-- Where the slot is left as it was, no firing of it was presented. -/
theorem FiringsCounted.of_untouched {i : SlotIx} {s t : State} (hslot : t.slot i = s.slot i)
    (hactive : t.active i = s.active i) (hfires : NoFireSince i s t) : FiringsCounted i s t := by
  obtain ⟨new, hout, hnone⟩ := hfires
  exact ⟨by rw [hslot], new, hout, by rw [hnone, State.firingsHad, State.firingsHad, hslot, hactive, Nat.add_zero]⟩

/-- A firing of a slot with firings left adds 1, whether it is the last or not (R135). -/
theorem firingsCounted_fireSlot {s : State} {i : SlotIx} (hi : s.active i = true)
    (hleft : (s.slot i).firedCount.toNat < (s.slot i).repeatLimit.toNat) : FiringsCounted i s (s.fireSlot i) := by
  obtain ⟨-, -, hlimit⟩ := s.fireSlot_registration i
  refine ⟨hlimit, _, s.fireSlot_outputs i, ?_⟩
  have hone : firesOf i [.fire i (s.slot i).fn] = 1 := by
    simp [firesOf, isFireOf]
  rw [State.firingsHad_of_active hi, hone]
  have hle : (s.slot i).firedCount.toNat + 1 ≤ (s.slot i).repeatLimit.toNat := hleft
  obtain hlt | he := hle.lt_or_eq
  · obtain ⟨hslot, hmask, -⟩ := State.fireSlot_of_counting hlt
    rw [State.firingsHad_of_active ((State.active_congr hmask i).trans hi), hslot]
    exact (toNat_add_one_of_lt hlt).symm
  · obtain ⟨-, hmask, -⟩ := State.fireSlot_of_exhausting he
    have hnow : (s.fireSlot i).active i = false := by
      simp [State.active, hmask]
    rw [State.firingsHad_of_inactive hnow, hlimit]
    exact he

theorem NoFireSince.of_respond {i : SlotIx} {s t : State} (h : t.outputs = s.outputs) (st : Status) (v : BitVec 32) :
    NoFireSince i s (t.respond st v) :=
  .of_outputs_append (o := .response (respWord st v)) (by rw [State.respond_outputs, h]) rfl

/-- What an instruction other than its CANCEL can do to an active slot: leave it as it was, or fire it. -/
theorem exec_keeps_or_fires {ins : Instr} {s t : State} {i : SlotIx} (h : exec ins s = .next t)
    (hi : s.active i = true) (hc : ins ≠ .cancel i) :
    (t.slot i = s.slot i ∧ t.active i = s.active i ∧ NoFireSince i s t) ∨ t = s.countTick.fireSlot i := by
  cases exec_effect h with
  | registered k _ hk =>
    obtain ⟨hfree, -⟩ := (lowestFree_eq_some_iff _ k).1 hk
    have hne : i ≠ k := by
      rintro rfl
      exact Bool.false_ne_true (hfree.symm.trans hi)
    refine .inl ⟨(s.occupy_slot k i _ _ _).trans (if_neg hne), ?_, .of_respond (s.occupy_outputs ..) _ _⟩
    simp [State.active, hne]
  | @cancelled k =>
    have hne : i ≠ k := by
      rintro rfl
      exact hc rfl
    refine .inl ⟨State.slot_congr (s.deactivate_slots k) i, ?_, .of_respond (s.deactivate_outputs k) _ _⟩
    simp [State.active, hne]
  | fired k =>
    by_cases hk : i = k
    · subst hk
      exact .inr rfl
    · obtain ⟨hslot, hactive⟩ := State.fireSlot_of_ne (s := s.countTick) hk
      exact .inl ⟨hslot, hactive, .of_outputs_append (s.countTick.fireSlot_outputs k) (decide_eq_false (Ne.symm hk))⟩
  | commanded =>
    exact .inl ⟨State.slot_congr (State.armServoIfIdle_slots _) i,
      State.active_congr (State.armServoIfIdle_activeMask _) i, .of_respond (State.armServoIfIdle_outputs _) _ _⟩
  | answered | returned | pulsed | matched => exact .inl ⟨rfl, rfl, .of_outputs_append rfl rfl⟩
  | ticked | cycled | blocked => exact .inl ⟨rfl, rfl, .of_outputs_eq rfl⟩

theorem State.timerMove_slot (s : State) (m : TimerMove) (i : SlotIx) : (s.timerMove m).slot i = s.slot i := by
  cases m <;> rfl

theorem ne_cancel_of_isCancelMove_eq_false {x : Wire} {ins : Instr} {i : SlotIx} (hd : decode x = .ok ins)
    (h : isCancelMove i (.wire x) = false) : ins ≠ .cancel i := by
  rintro rfl
  exact of_decide_eq_false h hd

/-- A step that does not cancel an active limited slot counts its firing, if it fires it. -/
theorem step_firingsCounted {s t : State} {i : SlotIx} (h : step s = .next t) (hinv : s.Inv) (hi : s.active i = true)
    (hlimit : (s.slot i).repeatLimit ≠ 0) (hcancel : ∀ m ∈ s.moves, isCancelMove i m = false) :
    FiringsCounted i s t := by
  obtain ⟨-, rfl⟩ | ⟨x, rest, ins, hm, hd, he⟩ | ⟨w, rest, r, -, -, rfl⟩ | ⟨b, rest, -, -, rfl⟩ | ⟨m, rest, -, rfl⟩ :=
    step_cases h
  · exact .of_untouched rfl rfl (.of_outputs_eq rfl)
  · have hc : ins ≠ .cancel i := ne_cancel_of_isCancelMove_eq_false hd (hcancel _ (by simp [hm]))
    obtain ⟨hslot, hactive, hnone⟩ | rfl := exec_keeps_or_fires (s := { s with moves := rest }) he hi hc
    · exact .of_untouched hslot hactive hnone
    · exact firingsCounted_fireSlot (s := State.countTick { s with moves := rest }) hi (hinv.counted i hi hlimit)
  · exact .of_untouched rfl rfl (.of_outputs_append rfl rfl)
  · exact .of_untouched rfl rfl (.of_outputs_eq rfl)
  · exact .of_untouched (State.timerMove_slot _ m i) (State.timerMove_active _ m i)
      (.of_outputs_eq (State.timerMove_outputs _ m))

theorem runSteps_succ_of_step {s u : State} (h : step s = .next u) (k : Nat) : runSteps (k + 1) s = runSteps k u := by
  rw [runSteps_succ, h]

theorem runSteps_keeps_inv {n : Nat} {s t : State} (hinv : s.Inv) (h : runSteps n s = .next t) : t.Inv := by
  induction n generalizing s with
  | zero =>
    cases h
    exact hinv
  | succ n ih =>
    obtain ⟨u, hu, hrun⟩ := runSteps_succ_next h
    exact ih (step_keeps_inv hinv hu) hrun

/-- A run that finds the limited slot active before each step, and does not cancel it, counts its firings. -/
theorem runSteps_firingsCounted {n : Nat} {s t : State} {i : SlotIx} (hinv : s.Inv)
    (hlimit : (s.slot i).repeatLimit ≠ 0) (hcancel : ∀ m ∈ s.moves, isCancelMove i m = false)
    (hactive : ∀ j u, j < n → runSteps j s = .next u → u.active i = true) (h : runSteps n s = .next t) :
    FiringsCounted i s t := by
  induction n generalizing s with
  | zero =>
    cases h
    exact .of_untouched rfl rfl (.of_outputs_eq rfl)
  | succ n ih =>
    obtain ⟨u, hu, hrun⟩ := runSteps_succ_next h
    have hfirst := step_firingsCounted hu hinv (hactive 0 s n.succ_pos rfl) hlimit hcancel
    have ⟨hsame, _⟩ := hfirst
    refine hfirst.trans (ih (step_keeps_inv hinv hu) (by rwa [hsame]) (fun m hm => ?_) (fun j v hj hv => ?_) hrun)
    · rw [step_moves hu] at hm
      exact hcancel m (List.mem_of_mem_tail hm)
    · exact hactive (j + 1) v (Nat.succ_lt_succ hj) ((runSteps_succ_of_step hu j).trans hv)

/-- Settles O56: the run counts the slot's firings, up to the limit while it is active and all of them once it is not. -/
theorem limitedSlotFiresExactlyItsLimit : Obligations.LimitedSlotFiresExactlyItsLimit := by
  intro n s t i hinv hlimit hcancel hactive hn h
  obtain ⟨hsame, new, hout, hfires⟩ := runSteps_firingsCounted hinv hlimit hcancel hactive h
  rw [State.firingsHad_of_active (hactive 0 s hn rfl)] at hfires
  refine ⟨new, hout, fun hi => ?_, fun hi => ?_⟩
  · rw [State.firingsHad_of_active hi] at hfires
    have hleft := (runSteps_keeps_inv hinv h).counted i hi (by rwa [hsame])
    rw [← hfires, hsame] at hleft
    exact ⟨hfires, hleft⟩
  · rw [State.firingsHad_of_inactive hi, hsame] at hfires
    exact hfires

/-! ### A sole slot at its due tick -/

/-- With slot `i` the only active one and firing forever, only it can be due, and it is when its due time has come. -/
theorem dueAt_iff_of_sole {s : State} {i : SlotIx} (hsole : ∀ j : SlotIx, s.activeMask.getLsbD j.val = decide (j = i))
    (hforever : s.slots[i].repeatLimit = 0) (n : Tick) (j : SlotIx) :
    DueAt s n j ↔ j = i ∧ s.slots[i].nextDue.toNat ≤ n.toNat := by
  rw [DueAt, hsole, decide_eq_true_iff]
  refine and_congr_right ?_
  rintro rfl
  exact and_iff_left (.inl hforever)

/-- Slot `i` fires forever, is the only active one and is due in `d` ticks, whose events are the moves to come before
`rest` and can occur (R130, R138). -/
structure AloneAndDueIn (i : SlotIx) (d : Nat) (rest : List Move) (s : State) : Prop where
  running : s.agendaRunning = true
  gie : s.gie = true
  ctx : s.ctx = .normal
  sole : ∀ j : SlotIx, s.activeMask.getLsbD j.val = decide (j = i)
  forever : s.slots[i].repeatLimit = 0
  due : s.slots[i].nextDue.toNat = s.tick.toNat + d
  moves : s.moves = List.replicate d (.wire (.event 0x01)) ++ rest

section
variable {i : SlotIx} {d : Nat} {rest : List Move} {s : State}

/-- A tick that does not pass the due time does not wrap the counter. -/
theorem AloneAndDueIn.toNat_next_tick (h : AloneAndDueIn i (d + 1) rest s) :
    (BitVec.ofNat 32 (s.tick.toNat + 1)).toNat = s.tick.toNat + 1 := by
  have hlt := s.slots[i].nextDue.isLt
  rw [h.due] at hlt
  rw [BitVec.toNat_ofNat, Nat.mod_eq_of_lt (by omega)]

theorem AloneAndDueIn.step_eq (h : AloneAndDueIn i (d + 1) rest s) :
    step s = exec .tickIrq { s with moves := List.replicate d (.wire (.event 0x01)) ++ rest } :=
  step_of_decode h.moves rfl

/-- A tick before the due one only counts. -/
theorem AloneAndDueIn.step_waits (h : AloneAndDueIn i (d + 1 + 1) rest s) :
    ∃ u, step s = .next u ∧ AloneAndDueIn i (d + 1) rest u ∧ u.tick.toNat = s.tick.toNat + 1 ∧
      u.outputs = s.outputs ∧ u.slots = s.slots ∧ u.activeMask = s.activeMask := by
  have htick := h.toNat_next_tick
  have hnone := tickWithNoDueSlotOnlyCounts
    { s with moves := List.replicate (d + 1) (.wire (.event 0x01)) ++ rest } h.running h.gie h.ctx fun j hj => by
      obtain ⟨-, hle⟩ := (dueAt_iff_of_sole h.sole h.forever _ j).1 hj
      have hle := hle.trans_eq htick
      have hdue := h.due
      omega
  refine ⟨_, h.step_eq.trans hnone, ⟨h.running, h.gie, h.ctx, h.sole, h.forever, ?_, rfl⟩, htick, rfl, rfl, rfl⟩
  refine Eq.trans ?_ (congrArg (· + (d + 1)) htick.symm)
  rw [Nat.add_right_comm]
  exact h.due

/-- The due tick fires the slot, and its next due time is one interval later. -/
theorem AloneAndDueIn.step_fires (h : AloneAndDueIn i 1 rest s) :
    ∃ t, step s = .next t ∧ t.tick.toNat = s.tick.toNat + 1 ∧ t.outputs = s.outputs ++ [.fire i s.slots[i].fn] ∧
      t.ctx = .callback i ∧ t.activeMask = s.activeMask ∧
      t.slots[i].nextDue.toNat = (t.tick.toNat + s.slots[i].interval.toNat) % 2 ^ 32 ∧ t.moves = rest := by
  have hdue := h.due.trans h.toNat_next_tick.symm
  obtain ⟨t, ht, htick, -, hout, hctx, -, -, -, -, hadvance, -, -, -, -, -, -, ⟨-, hmoves⟩⟩ :=
    tickFiresTheLowestDueSlot { s with moves := rest } i h.running h.gie h.ctx
      ((dueAt_iff_of_sole h.sole h.forever _ i).2 ⟨rfl, hdue.le⟩)
      fun j hj hdue => hj.ne ((dueAt_iff_of_sole h.sole h.forever _ j).1 hdue).1
  obtain ⟨-, hnext, hmask, -⟩ := hadvance h.forever
  refine ⟨t, h.step_eq.trans ht, htick.trans ?_, hout, hctx, hmask, hnext, hmoves⟩
  exact (BitVec.toNat_ofNat _ _).symm.trans h.toNat_next_tick

end

/-- Settles O57: by induction on the ticks still to come; each but the last only counts. -/
theorem periodicSlotFiresAtItsDueTick : Obligations.PeriodicSlotFiresAtItsDueTick := by
  intro s i d rest hr hg hn hsole hforever hd hdue hm
  obtain ⟨d, rfl⟩ := Nat.exists_eq_add_one_of_ne_zero hd.ne'
  have h : AloneAndDueIn i (d + 1) rest s := ⟨hr, hg, hn, hsole, hforever, hdue, hm⟩
  clear hr hg hn hsole hforever hd hdue hm
  induction d generalizing s with
  | zero =>
    obtain ⟨t, ht, hfires⟩ := h.step_fires
    refine ⟨fun j hj => ?_, t, runSteps_succ_of_step ht 0, hfires⟩
    obtain rfl := Nat.lt_one_iff.1 hj
    exact ⟨s, rfl, rfl, rfl⟩
  | succ d ih =>
    obtain ⟨u, hu, hwait, htick, hout, hslots, hmask⟩ := h.step_waits
    obtain ⟨hearly, t, ht, hlast, hfires⟩ := ih u hwait
    rw [htick] at hlast
    rw [hout, hslots, hmask] at hfires
    refine ⟨fun j hj => ?_, t, (runSteps_succ_of_step hu _).trans ht, by omega, hfires⟩
    cases j with
    | zero => exact ⟨s, rfl, rfl, rfl⟩
    | succ j =>
      obtain ⟨v, hv, hvtick, hvout⟩ := hearly j (Nat.lt_of_succ_lt_succ hj)
      exact ⟨v, (runSteps_succ_of_step hu j).trans hv, by omega, hvout.trans hout⟩

end Sys2Proof.Machine
end

section
/-!
PROOFS. The servo family (41_servo.md): at most one line is high; the overflows of a run serve the channels round-robin;
SET_ANGLE with its rejections and each of the two servo events, with their frames.
-/

namespace Sys2Proof.Machine

/-! ### At most one high line -/

/-- A high line is the current channel's (R171). -/
theorem State.Inv.eq_currentChannel_of_line {s : State} (h : s.Inv) {c : ChannelIx} (hc : s.line[c] = true) :
    c = s.currentChannel := by
  by_contra hne
  simp [h.lines c, hne] at hc

/-- Settles O42: the invariant's conjuncts on the lines and on the map, which every reachable state meets. -/
theorem atMostOneLineIsHigh : Obligations.AtMostOneLineIsHigh := by
  intro s hs
  have h := hs.inv
  refine ⟨fun c hc => ?_, ?_, fun c d hc hd => ?_, (vector_nodup_iff _).1 h.lineMap⟩
  · simp [h.lines c, hc]
  · simp [h.lines s.currentChannel]
  · exact (h.eq_currentChannel_of_line hc).trans (h.eq_currentChannel_of_line hd).symm

/-! ### The channel being served -/

/-- An overflow that occurs selects the next channel; no other effect selects one (R44). -/
theorem exec_currentChannel {i : Instr} {s t : State} (h : exec i s = .next t) :
    t.currentChannel =
      if i = .servoOvfIrq ∧ gateOvf s = true then nextChannel s.currentChannel else s.currentChannel := by
  cases exec_effect h with
  | cycled hg | pulsed hg => simp [hg]
  | fired => simp [State.fireSlot]
  | answered st v hw =>
    rw [if_neg (by rintro ⟨rfl, -⟩; cases hw)]
    rfl
  | blocked hc hb =>
    rw [if_neg]
    rintro ⟨rfl, hg⟩
    cases hc
    simp [gateOf, hg] at hb
  | registered | cancelled | commanded | returned | ticked | matched => simp

theorem takesOvf_iff (s : State) :
    takesOvf s = true ↔ (∃ rest, s.moves = .wire (.event 2) :: rest) ∧ gateOvf s = true := by
  simp only [takesOvf, nextIsEvent, Bool.and_eq_true, beq_iff_eq, List.head?_eq_some_iff]

/-- Of the moves whose bits decode, only a SERVO_OVF_IRQ whose gate holds takes an overflow. -/
theorem takesOvf_iff_of_decode {s : State} {x : Wire} {rest : List Move} {i : Instr}
    (hm : s.moves = .wire x :: rest) (hd : decode x = .ok i) :
    takesOvf s = true ↔ i = .servoOvfIrq ∧ gateOvf s = true := by
  rw [takesOvf_iff, hm]
  refine and_congr_left fun _ => ⟨?_, ?_⟩
  · rintro ⟨_, e⟩
    cases e
    exact (Except.ok.inj hd).symm
  · rintro rfl
    exact ⟨rest, by rw [← (decode_eq_ok_iff x _).1 hd]; rfl⟩

theorem State.timerMove_currentChannel (s : State) (m : TimerMove) :
    (s.timerMove m).currentChannel = s.currentChannel := by
  cases m <;> rfl

theorem step_currentChannel {s t : State} (h : step s = .next t) :
    t.currentChannel = if takesOvf s = true then nextChannel s.currentChannel else s.currentChannel := by
  obtain ⟨hm, rfl⟩ | ⟨x, rest, i, hm, hd, he⟩ | ⟨w, rest, r, hm, -, rfl⟩ | ⟨b, rest, hm, -, rfl⟩ | ⟨m, rest, hm, rfl⟩ :=
    step_cases h
  · simp [takesOvf_iff, hm]
  · rw [exec_currentChannel he]
    simp only [takesOvf_iff_of_decode hm hd]
    rfl
  · simp [takesOvf_iff, hm, State.illegalCommand]
  · simp [takesOvf_iff, hm]
  · simp [takesOvf_iff, hm, State.timerMove_currentChannel]

/-! ### The channels a run serves -/

theorem channelsServed_succ_of_step {s u : State} (h : step s = .next u) (n : Nat) :
    channelsServed (n + 1) s = (if takesOvf s then [u.currentChannel] else []) ++ channelsServed n u := by
  simp only [channelsServed, h]

/-- The `j`-th overflow of a run selects the channel `j + 1` places after the current one (R172). -/
theorem val_of_channelsServed {n : Nat} {s t : State} (h : runSteps n s = .next t) {j : Nat} {c : ChannelIx}
    (hc : (channelsServed n s)[j]? = some c) : c.val = (s.currentChannel.val + 1 + j) % 10 := by
  induction n generalizing s j with
  | zero => simp [channelsServed] at hc
  | succ n ih =>
    obtain ⟨u, hu, hrun⟩ := runSteps_succ_next h
    have hcur := step_currentChannel hu
    rw [channelsServed_succ_of_step hu] at hc
    cases hk : takesOvf s with
    | false =>
      simp only [hk, Bool.false_eq_true, if_false] at hc hcur
      rw [← hcur]
      exact ih hrun hc
    | true =>
      simp only [hk, if_true] at hc hcur
      have hval := (congrArg Fin.val hcur).trans (nextChannel_val _)
      cases j with
      | zero => exact Option.some.inj hc ▸ hval
      | succ j =>
        have hj := ih hrun hc
        omega

/-- Ten channels in increasing order with wraparound are all ten, each once. -/
theorem count_eq_one_of_round {l : List ChannelIx} {k : Nat} (hlen : l.length = 10)
    (h : ∀ j c, l[j]? = some c → c.val = (k + j) % 10) (c : ChannelIx) : l.count c = 1 := by
  have hget : ∀ j (hj : j < l.length), l[j].val = (k + j) % 10 := fun j hj => h j _ (List.getElem?_eq_getElem hj)
  refine List.count_eq_one_of_mem ?_ ?_
  · refine List.nodup_iff_injective_getElem.2 fun i j hij => Fin.ext ?_
    have hi := hget i i.isLt
    have hj := hget j j.isLt
    rw [show l[i.val] = l[j.val] from hij, hj] at hi
    omega
  · have hj : (c.val + 10 - k % 10) % 10 < l.length := by omega
    rw [show c = l[(c.val + 10 - k % 10) % 10] from Fin.ext (by rw [hget _ hj]; omega)]
    exact List.getElem_mem hj

/-- Settles O54: the order by induction on the steps; ten places in that order are every channel once. -/
theorem overflowsServeChannelsRoundRobin : Obligations.OverflowsServeChannelsRoundRobin :=
  fun _ _ _ h =>
    have hround := fun _ _ => val_of_channelsServed h
    ⟨hround, fun hlen => count_eq_one_of_round hlen hround⟩

/-! ### SET_ANGLE -/

theorem exec_setAngle_of_legal {c : BitVec 4} {a : BitVec 8} {ch : ChannelIx} (hc : ch.val = c.toNat)
    (ha : -1 ≤ a.toInt ∧ a.toInt ≤ 100) (s : State) :
    exec (.setAngle c a) s = .next ((s.setAngle ch a).armServoIfIdle.respond .ok 0) := by
  simp [exec, execSetAngle, (channelOf_eq_some c ch).2 hc, (angleLegal_iff a).2 ha]

theorem exec_setAngle_of_invalidChannel {c : BitVec 4} (hc : 10 ≤ c.toNat) (a : BitVec 8) (s : State) :
    exec (.setAngle c a) s = .next (s.respond .invalidChannel 0) := by
  simp [exec, execSetAngle, (channelOf_eq_none c).2 hc]

theorem exec_setAngle_of_invalidAngle {c : BitVec 4} {a : BitVec 8} (hc : c.toNat < 10)
    (ha : a.toInt < -1 ∨ 100 < a.toInt) (s : State) : exec (.setAngle c a) s = .next (s.respond .invalidAngle 0) := by
  have hch : channelOf c = some ⟨c.toNat, hc⟩ := (channelOf_eq_some c _).2 rfl
  have hillegal : ¬angleLegal a = true := fun h => by
    have hlegal := (angleLegal_iff a).1 h
    omega
  simp [exec, execSetAngle, hch, hillegal]

/-- Arming sets `gie` when an idle multiplexer is armed in normal context, and otherwise leaves it (R162). -/
theorem State.armServoIfIdle_gie_eq_ite (s : State) :
    s.armServoIfIdle.gie = if s.servoRunning = false ∧ s.ctx = .normal then true else s.gie := by
  simp only [State.armServoIfIdle_gie, ← inNormal_iff]
  cases s.servoRunning <;> cases inNormal s <;> simp

/-- An idle multiplexer's timer is set up; a running one's is left alone (R162, R165). -/
theorem State.armServoIfIdle_timer (s : State) :
    s.armServoIfIdle.servoPrescale = (if s.servoRunning = false then s.cfg.servoPrescale else s.servoPrescale) ∧
    s.armServoIfIdle.servoCount = (if s.servoRunning = false then s.cfg.servoPreload else s.servoCount) ∧
    s.armServoIfIdle.servoOvfPf = (if s.servoRunning = false then false else s.servoOvfPf) ∧
    s.armServoIfIdle.servoCmpPf = (if s.servoRunning = false then false else s.servoCmpPf) := by
  unfold State.armServoIfIdle
  cases h : s.servoRunning <;> simp

theorem State.armServoIfIdle_sameAgenda (s : State) : SameAgenda s s.armServoIfIdle := by
  refine ⟨?_, ?_, ?_, ?_, ?_, ?_, ?_⟩ <;> simp

/-- The angles after a SET_ANGLE, channel by channel (R165). -/
theorem State.armServoIfIdle_setAngle_angle (s : State) (c d : ChannelIx) (a : BitVec 8) :
    (s.setAngle c a).armServoIfIdle.angle[d] = if d = c then a else s.angle[d] := by
  rw [State.armServoIfIdle_angle]
  exact s.angleOf_setAngle c d a

/-- Settles O28: the angle is set, then an idle multiplexer is armed, field by field. -/
theorem setAngleCommandsAPosition : Obligations.SetAngleCommandsAPosition := by
  intro s c a ch hc hlo hhi
  obtain ⟨hprescale, hcount, hovf, hcmp⟩ := (s.setAngle ch a).armServoIfIdle_timer
  refine ⟨_, exec_setAngle_of_legal hc ⟨hlo, hhi⟩ s,
    (s.armServoIfIdle_setAngle_angle ch ch a).trans (if_pos rfl),
    fun d hd => (s.armServoIfIdle_setAngle_angle ch d a).trans (if_neg hd),
    State.armServoIfIdle_servoRunning _, State.armServoIfIdle_gie_eq_ite _, hprescale, hcount, hovf, hcmp, ?_,
    State.armServoIfIdle_currentChannel _, State.armServoIfIdle_servoCmpV _, State.armServoIfIdle_cmpOwed _,
    State.armServoIfIdle_cmpDone _, State.armServoIfIdle_line _, State.armServoIfIdle_ctx _,
    { (s.setAngle ch a).armServoIfIdle_sameAgenda with },
    ⟨State.armServoIfIdle_cfg _, State.armServoIfIdle_moves _⟩⟩
  rw [State.respond_outputs, State.armServoIfIdle_outputs]
  rfl

/-- A SET_ANGLE word with its reserved bits 0 runs SET_ANGLE on its two fields (R94, R97). -/
theorem step_setAngle {s : State} {w : CmdWord} {rest : List Move} (hm : s.moves = .wire (.command w) :: rest)
    (hop : w.extractLsb' 60 4 = 3) (hr : w.extractLsb' 12 48 = 0) :
    step s = exec (.setAngle (w.extractLsb' 8 4) (w.extractLsb' 0 8)) { s with moves := rest } :=
  step_of_decode hm ((decodeCommand_eq_ok_iff w _).2 (.inr (.inr (.inl ⟨hop, hr, rfl⟩))))

/-- Settles O29: the reserved bits are the decoder's check, the channel and the angle the instruction's. -/
theorem setAngleValidationOrder : Obligations.SetAngleValidationOrder :=
  fun s w rest hm hop =>
    ⟨fun hr => reservedBitsAnswerIllegal s w rest hm (.inr (.inr (.inl ⟨hop, hr⟩))),
      fun hr hc => (step_setAngle hm hop hr).trans (exec_setAngle_of_invalidChannel hc _ _),
      fun hr hc ha => (step_setAngle hm hop hr).trans (exec_setAngle_of_invalidAngle hc ha _)⟩

/-! ### SERVO_OVF_IRQ -/

theorem exec_servoOvfIrq_of_gate {s : State} (hg : gateOvf s = true) : exec .servoOvfIrq s = .next s.ovfHandler := by
  simp [exec, execServoOvfIrq, hg]

theorem State.ovfHandler_of_enabled {s : State} (ha : (s.angleOf (nextChannel s.currentChannel)).toInt ≠ -1) :
    s.ovfHandler = s.beginCycle.beginPulse :=
  if_neg (mt (angleDisabled_iff _).1 ha)

theorem State.ovfHandler_of_disabled {s : State} (ha : (s.angleOf (nextChannel s.currentChannel)).toInt = -1) :
    s.ovfHandler = s.beginCycle :=
  if_pos ((angleDisabled_iff _).2 ha)

theorem eq_nextChannel {c d : ChannelIx} (h : d.val = (c.val + 1) % 10) : d = nextChannel c :=
  Fin.ext (h.trans (nextChannel_val c).symm)

/-- The pulse length of an enabled channel is not cut (R161). -/
theorem committedPulse_toNat {a : BitVec 8} (hlo : 0 ≤ a.toInt) (hhi : a.toInt ≤ 100) :
    ((committedPulse a).toNat : Int) = a.toInt + 150 := by
  rw [committedPulse, BitVec.toNat_ofInt]
  omega

/-- Settles O30: the next channel's cycle and then its pulse begin, field by field. -/
theorem overflowStartsThePulse : Obligations.OverflowStartsThePulse := by
  intro s c hr hg hn ho hc hlo hhi
  obtain rfl := eq_nextChannel hc
  have hne : (s.angleOf (nextChannel s.currentChannel)).toInt ≠ -1 := (Int.lt_of_lt_of_le (by decide) hlo).ne'
  have ht := exec_servoOvfIrq_of_gate ((gateOvf_iff s).2 ⟨hr, hg, hn, ho⟩)
  rw [State.ovfHandler_of_enabled hne] at ht
  exact ⟨_, ht, rfl, rfl, rfl,
    committedPulse_toNat hlo hhi, (line_set s.line _ _ true).trans (if_pos rfl),
    fun d hd => (line_set s.line _ d true).trans (if_neg hd), rfl, rfl, rfl, hr, ⟨rfl, rfl, rfl⟩, ⟨rfl, rfl⟩,
    ⟨rfl, rfl, rfl, rfl, rfl, rfl, rfl⟩, ⟨rfl, rfl⟩⟩

/-- Settles O31: a disabled channel's cycle begins without a pulse. -/
theorem overflowOfADisabledChannel : Obligations.OverflowOfADisabledChannel := by
  intro s c hr hg hn ho hc ha
  obtain rfl := eq_nextChannel hc
  rw [exec_servoOvfIrq_of_gate ((gateOvf_iff s).2 ⟨hr, hg, hn, ho⟩), State.ovfHandler_of_disabled ha]
  rfl

/-! ### SERVO_CMP_IRQ -/

theorem exec_servoCmpIrq_of_gate {s : State} (hg : gateCmp s = true) : exec .servoCmpIrq s = .next s.cmpHandler := by
  simp [exec, execServoCmpIrq, hg]

/-- Settles O32: the handler lowers the current channel's line whatever its angle, field by field. -/
theorem compareMatchEndsThePulse : Obligations.CompareMatchEndsThePulse := by
  rintro s c hr hg hn hdone rfl
  exact ⟨_, exec_servoCmpIrq_of_gate ((gateCmp_iff s).2 ⟨hr, hg, hn, hdone⟩),
    (line_set s.line _ _ false).trans (if_pos rfl), fun d hd => (line_set s.line _ d false).trans (if_neg hd), rfl, rfl,
    rfl, rfl, rfl, hr, rfl, rfl, ⟨rfl, rfl, rfl⟩, ⟨rfl, rfl⟩, ⟨rfl, rfl, rfl, rfl, rfl, rfl, rfl⟩, ⟨rfl, rfl⟩⟩

end Sys2Proof.Machine
end

section
/-!
PROOFS. The exceptions family (60_exceptions.md): an event occurs exactly when its gate holds; the context changes by a
firing and by CB_RETURN alone; a callback that does not return blocks every event; a fair run ends a pulse; the statuses
of each command; SET_GIE.
-/

namespace Sys2Proof.Machine

/-! ### The event gate -/

/-- An event offered under a closed gate changes nothing (R198, log 2). -/
theorem exec_of_gate_closed {i : Instr} {code : EventCode} {s : State} (hi : encode i = .event code)
    (hg : gateOf code s = false) : exec i s = .next s := by
  obtain ⟨t, ht⟩ := exec_answers_next i s
  cases exec_effect ht with
  | blocked => exact ht
  | answered st v hw => cases hi.symm.trans hw
  | registered | cancelled | commanded | returned => cases hi
  | ticked hopen | fired _ hopen | cycled hopen | pulsed hopen | matched hopen =>
    cases hi
    cases hg.symm.trans hopen

/-- An event that changes the state whenever its gate holds changes it only then (R198, log 2). -/
theorem exec_ne_iff_gateOf {i : Instr} {code : EventCode} {s : State} (hi : encode i = .event code)
    (hopen : gateOf code s = true → exec i s ≠ .next s) : exec i s ≠ .next s ↔ gateOf code s = true := by
  refine ⟨fun hne => ?_, hopen⟩
  by_contra hg
  exact hne (exec_of_gate_closed hi (Bool.eq_false_iff.2 hg))

theorem exec_tickIrq_ne_iff (s : State) : exec .tickIrq s ≠ .next s ↔ gateTick s = true :=
  exec_ne_iff_gateOf (code := 1) rfl fun hg hsame => by
    have htick : s.tick = s.tick + 1 := (exec_tick hsame).trans (if_pos ⟨rfl, hg⟩)
    bv_omega

theorem exec_servoOvfIrq_ne_iff (s : State) : exec .servoOvfIrq s ≠ .next s ↔ gateOvf s = true :=
  exec_ne_iff_gateOf (code := 2) rfl fun hg hsame => by
    have hchannel : s.currentChannel = nextChannel s.currentChannel :=
      (exec_currentChannel hsame).trans (if_pos ⟨rfl, hg⟩)
    exact nextChannel_ne _ hchannel.symm

theorem gateCmp_of_cmpDone {s : State} (h : s.cmpDone = true) : gateCmp s = false := by
  simp [gateCmp, h]

theorem exec_servoCmpIrq_ne_iff (s : State) : exec .servoCmpIrq s ≠ .next s ↔ gateCmp s = true :=
  exec_ne_iff_gateOf (code := 3) rfl fun hg hsame => by
    have hself : s.cmpHandler = s := Host.Outcome.next.inj ((exec_servoCmpIrq_of_gate hg).symm.trans hsame)
    have hdone : s.cmpDone = true := hself ▸ s.cmpHandler_cmpDone
    cases hg.symm.trans (gateCmp_of_cmpDone hdone)

/-- Settles O33: a tick that occurs counts, and the counter with 1 added is another. -/
theorem tickOccursExactlyWhenGated : Obligations.TickOccursExactlyWhenGated :=
  fun s => (exec_tickIrq_ne_iff s).trans (gateTick_iff s)

/-- Settles O34: an overflow that occurs selects another channel. -/
theorem overflowOccursExactlyWhenGated : Obligations.OverflowOccursExactlyWhenGated :=
  fun s => (exec_servoOvfIrq_ne_iff s).trans (gateOvf_iff s)

/-- Settles O35: a match that occurs is done, which closes its own gate; one that is owed closes the overflow's. -/
theorem compareOccursExactlyWhenGated : Obligations.CompareOccursExactlyWhenGated := by
  refine ⟨fun s => (exec_servoCmpIrq_ne_iff s).trans (gateCmp_iff s), fun s t h hne => ?_, fun s ho => ?_⟩
  · have hg : gateCmp s = true :=
      (exec_servoCmpIrq_ne_iff s).1 fun hsame => hne (Host.Outcome.next.inj (h.symm.trans hsame))
    cases h.symm.trans (exec_servoCmpIrq_of_gate hg)
    exact exec_of_gate_closed (code := 3) rfl (gateCmp_of_cmpDone s.cmpHandler_cmpDone)
  · have hclosed : gateOvf s = false := by
      simp [gateOvf, ho]
    exact exec_of_gate_closed (code := 2) rfl hclosed

/-! ### The context -/

theorem exists_callback_of_not_inNormal {s : State} (h : inNormal s = false) : ∃ k, s.ctx = .callback k := by
  cases hc : s.ctx with
  | normal => simp [inNormal, hc] at h
  | callback k => exact ⟨k, rfl⟩

/-- An instruction leaves the context, or fires a slot as a tick that occurs, or returns from a callback (R205). -/
theorem exec_ctx {i : Instr} {s t : State} (h : exec i s = .next t) :
    t.ctx = s.ctx ∨
    (i = .tickIrq ∧ gateTick s = true ∧ ∃ k fn, t.ctx = .callback k ∧ t.outputs = s.outputs ++ [.fire k fn]) ∨
    (i = .cbReturn ∧ t.ctx = .normal ∧ ∃ k, s.ctx = .callback k) := by
  cases exec_effect h with
  | fired k hg => exact .inr (.inl ⟨rfl, hg, k, _, s.countTick.fireSlot_ctx k, s.countTick.fireSlot_outputs k⟩)
  | returned hn => exact .inr (.inr ⟨rfl, rfl, exists_callback_of_not_inNormal hn⟩)
  | answered | registered | cancelled | commanded | ticked | cycled | pulsed | matched | blocked => exact .inl (by simp)

theorem eq_command_of_decode_cbReturn {x : Wire} (h : decode x = .ok .cbReturn) :
    x = .command 0x5000000000000000 := by
  rw [← (decode_eq_ok_iff x _).1 h]
  decide

theorem State.timerMove_ctx (s : State) (m : TimerMove) : (s.timerMove m).ctx = s.ctx := by
  cases m <;> rfl

/-- Settles O47: along the cases of a step; of the instructions only a firing tick and CB_RETURN write the context. -/
theorem contextChangesOnlyByFireAndReturn : Obligations.ContextChangesOnlyByFireAndReturn := by
  intro s t h hne
  obtain ⟨-, rfl⟩ | ⟨x, rest, i, hm, hd, he⟩ | ⟨w, rest, r, -, -, rfl⟩ | ⟨b, rest, -, -, rfl⟩ | ⟨m, rest, -, rfl⟩ :=
    step_cases h
  · exact absurd rfl hne
  · obtain hsame | ⟨rfl, hg, k, fn, ht, hout⟩ | ⟨rfl, ht, k, hk⟩ := exec_ctx he
    · exact absurd hsame hne
    · obtain ⟨-, -, hn⟩ := (gateTick_iff s).1 hg
      exact .inl ⟨k, fn, (takesTick_iff_of_decode hm hd).2 ⟨rfl, hg⟩, hn, ht, hout⟩
    · exact .inr ⟨k, rest, hk, ht, by rw [hm, eq_command_of_decode_cbReturn hd]⟩
  · exact absurd rfl hne
  · exact absurd rfl hne
  · exact absurd (State.timerMove_ctx _ m) hne

/-! ### A callback that does not return -/

/-- Between `s` and `t` only responses have been presented, and what a firing, a tick, a pulse or a return writes is as it
was. -/
structure OnlyResponded (s t : State) : Prop where
  ctx : t.ctx = s.ctx
  tick : t.tick = s.tick
  line : t.line = s.line
  currentChannel : t.currentChannel = s.currentChannel
  outputs : ∃ new, t.outputs = s.outputs ++ new ∧ ∀ o ∈ new, isResponse o = true

theorem OnlyResponded.refl (s : State) : OnlyResponded s s := ⟨rfl, rfl, rfl, rfl, [], by simp, by simp⟩

theorem OnlyResponded.trans {s t u : State} (hst : OnlyResponded s t) (htu : OnlyResponded t u) :
    OnlyResponded s u := by
  obtain ⟨hc, ht, hl, hn, a, hta, ha⟩ := hst
  obtain ⟨hc', ht', hl', hn', b, hub, hb⟩ := htu
  refine ⟨hc'.trans hc, ht'.trans ht, hl'.trans hl, hn'.trans hn, a ++ b, by rw [hub, hta, List.append_assoc], ?_⟩
  simp only [List.mem_append]
  rintro o (ho | ho)
  · exact ha o ho
  · exact hb o ho

/-- A response after an update that presents nothing and writes none of these fields. -/
theorem OnlyResponded.respond {s u : State} (hctx : u.ctx = s.ctx) (htick : u.tick = s.tick) (hline : u.line = s.line)
    (hchannel : u.currentChannel = s.currentChannel) (hout : u.outputs = s.outputs) (st : Status) (v : BitVec 32) :
    OnlyResponded s (u.respond st v) :=
  ⟨hctx, htick, hline, hchannel, [.response (respWord st v)], by rw [State.respond_outputs, hout],
    by simp [isResponse]⟩

theorem gate_closed_of_callback {s : State} {k : SlotIx} (hk : s.ctx = .callback k) :
    gateTick s = false ∧ gateOvf s = false ∧ gateCmp s = false := by
  simp [gateTick, gateOvf, gateCmp, inNormal, hk]

/-- In callback context every event is blocked, and of the commands only CB_RETURN writes the context (R201, R252). -/
theorem exec_onlyResponded {i : Instr} {s t : State} {k : SlotIx} (hk : s.ctx = .callback k) (hi : i ≠ .cbReturn)
    (h : exec i s = .next t) : OnlyResponded s t := by
  obtain ⟨htick, hovf, hcmp⟩ := gate_closed_of_callback hk
  cases exec_effect h with
  | answered | registered | cancelled | commanded =>
    exact .respond (by simp) (by simp) (by simp) (by simp) (by simp) _ _
  | returned => exact absurd rfl hi
  | ticked hg | fired _ hg => cases htick.symm.trans hg
  | cycled hg | pulsed hg => cases hovf.symm.trans hg
  | matched hg => cases hcmp.symm.trans hg
  | blocked => exact .refl s

theorem OnlyResponded.timerMove (s : State) (m : TimerMove) : OnlyResponded s (s.timerMove m) := by
  cases m <;> exact ⟨rfl, rfl, rfl, rfl, [], by simp [State.timerMove], by simp⟩

/-- A step in a callback that takes no CB_RETURN word; SET_GIE is no move there (R194). -/
theorem step_onlyResponded {s t : State} {k : SlotIx} (hk : s.ctx = .callback k)
    (hret : ∀ m ∈ s.moves, isReturnMove m = false) (h : step s = .next t) : OnlyResponded s t := by
  obtain ⟨-, rfl⟩ | ⟨x, rest, i, hm, hd, he⟩ | ⟨w, rest, r, -, -, rfl⟩ | ⟨b, rest, -, hn, -⟩ | ⟨m, rest, -, rfl⟩ :=
    step_cases h
  · exact .refl _
  · have hi : i ≠ .cbReturn := by
      rintro rfl
      have hx : isReturnMove (.wire x) = false := hret _ (by simp [hm])
      simp [isReturnMove, eq_command_of_decode_cbReturn hd] at hx
    exact { exec_onlyResponded (s := { s with moves := rest }) hk hi he with }
  · exact OnlyResponded.respond (s := s) (u := { s with moves := rest }) rfl rfl rfl rfl rfl .illegalCommand 0
  · cases hk.symm.trans hn
  · exact { OnlyResponded.timerMove { s with moves := rest } m with }

theorem runSteps_onlyResponded {n : Nat} {s t : State} {k : SlotIx} (hk : s.ctx = .callback k)
    (hret : ∀ m ∈ s.moves, isReturnMove m = false) (h : runSteps n s = .next t) : OnlyResponded s t := by
  induction n generalizing s with
  | zero =>
    cases h
    exact .refl _
  | succ n ih =>
    obtain ⟨u, hu, hrun⟩ := runSteps_succ_next h
    have hsu := step_onlyResponded hk hret hu
    have hretu : ∀ m ∈ u.moves, isReturnMove m = false := by
      rw [step_moves hu]
      exact fun m hm => hret m (List.mem_of_mem_tail hm)
    exact hsu.trans (ih (hsu.ctx.trans hk) hretu hrun)

/-- Settles O53: by induction over the run; each step leaves the context as it is, so every event stays blocked. -/
theorem callbackWithoutReturnBlocksEveryEvent : Obligations.CallbackWithoutReturnBlocksEveryEvent := by
  intro n s t k hk hret h
  obtain ⟨hctx, htick, hline, hchannel, hout⟩ := runSteps_onlyResponded hk hret h
  exact ⟨hctx.trans hk, htick, hline, hchannel, hout⟩

/-! ### Fair runs -/

theorem IsRun.inv {f : Nat → State} {m : Nat → Move} (hf : IsRun f m) {k : Nat} (hk : (f k).Inv) {n : Nat}
    (hn : k ≤ n) : (f n).Inv := by
  induction n, hn using Nat.le_induction with
  | base => exact hk
  | succ n _ ih => exact step_keeps_inv (ih.withMoves [m n]) (hf n)

/-- While a pulse is in progress, its compare match can occur in normal context with interrupts enabled (R47, R170). -/
theorem State.Inv.gateCmp_of_cmpOwed {s : State} (h : s.Inv) (ho : s.cmpOwed = true) (hg : s.gie = true)
    (hn : s.ctx = .normal) : gateCmp s = true := by
  have hrunning : s.servoRunning = true := by
    by_contra hidle
    obtain ⟨hnone, -⟩ := h.servoIdle (Bool.eq_false_iff.2 hidle)
    cases ho.symm.trans hnone
  exact (gateCmp_iff s).2 ⟨hrunning, hg, hn, Bool.eq_false_iff.2 fun hd => h.order ⟨ho, hd⟩⟩

/-- A compare match taken under an open gate leaves none owed (R169). -/
theorem cmpOwed_of_step_match {s t : State} {rest : List Move} (hm : s.moves = .wire (.event 3) :: rest)
    (hg : gateCmp s = true) (h : step s = .next t) : t.cmpOwed = false := by
  have hmatch : step s = .next (State.cmpHandler { s with moves := rest }) :=
    (step_of_decode hm rfl).trans (exec_servoCmpIrq_of_gate hg)
  rw [Host.Outcome.next.inj (h.symm.trans hmatch)]
  exact State.cmpHandler_cmpOwed _

/-- Settles O59: were a match owed for ever, its gate would hold for ever, and the fair run would take it. -/
theorem pulsesEndInFairRuns : Obligations.PulsesEndInFairRuns := by
  intro f m k hf hfair hk _ hopen
  by_contra hnever
  have howed : ∀ n, k ≤ n → (f n).cmpOwed = true := fun n hn => by
    by_contra ho
    have ho := Bool.eq_false_iff.2 ho
    exact hnever ⟨n, hn, ho, (hf.inv hk hn).line_low ho _⟩
  have hgate : ∀ n, k ≤ n → gateCmp (f n) = true := fun n hn => by
    obtain ⟨hg, hc⟩ := hopen n hn
    exact (hf.inv hk hn).gateCmp_of_cmpOwed (howed n hn) hg hc
  obtain ⟨n, hn, hm⟩ := hfair 3 k hgate
  have hended : (f (n + 1)).cmpOwed = false :=
    cmpOwed_of_step_match (s := { f n with moves := [m n] }) (congrArg (· :: []) hm) (hgate n hn) (hf n)
  cases (howed (n + 1) (Nat.le_succ_of_le hn)).symm.trans hended

/-! ### Statuses -/

/-- R191's table: the status codes that the words of an opcode are answered with; a reserved opcode's are illegal. -/
def opStatusCodes (op : BitVec 4) : List (BitVec 4) :=
  if op = 1 then [0, 1, 4, 5] else if op = 2 then [0, 5] else if op = 3 then [0, 2, 3, 5]
  else if op = 4 then [0, 5] else if op = 5 then [0, 6, 5] else [5]

/-- From `s` to `t` a response is presented, and with any status but OK that is all and its value is 0 (R101). -/
def RespondsWith (s t : State) (st : Status) (v : BitVec 32) : Prop :=
  t.outputs = s.outputs ++ [.response (respWord st v)] ∧ (st ≠ .ok → v = 0 ∧ t = s.respond st v)

theorem respondsWith_rejection (s : State) (st : Status) : RespondsWith s (s.respond st 0) st 0 :=
  ⟨rfl, fun _ => ⟨rfl, rfl⟩⟩

theorem respondsWith_ok {s u : State} (h : u.outputs = s.outputs) (v : BitVec 32) :
    RespondsWith s (u.respond .ok v) .ok v :=
  ⟨by rw [State.respond_outputs, h], fun hne => absurd rfl hne⟩

/-- A command responds with one of its opcode's statuses (R191). -/
theorem exec_respondsWith {i : Instr} {w : CmdWord} {s t : State} (hd : decode (.command w) = .ok i)
    (h : exec i s = .next t) : ∃ st v, RespondsWith s t st v ∧ statusCode st ∈ opStatusCodes (opField w) := by
  obtain ⟨hop, -, rfl⟩ | ⟨hop, -, rfl⟩ | ⟨hop, -, rfl⟩ | ⟨hop, -, rfl⟩ | ⟨hop, -, rfl⟩ :=
    (decodeCommand_eq_ok_iff w i).1 hd <;> rw [hop]
  · obtain ⟨-, e⟩ | ⟨-, -, e⟩ | ⟨k, -, -, e⟩ := execRegister_cases (fnField w) (rptField w) (ivlField w) s <;>
      cases e.symm.trans h
    · exact ⟨.invalidInterval, 0, respondsWith_rejection s _, by decide⟩
    · exact ⟨.schedulerFull, 0, respondsWith_rejection s _, by decide⟩
    · exact ⟨.ok, _, respondsWith_ok (s.occupy_outputs k _ _ _) _, by decide⟩
  · cases h
    refine ⟨.ok, 0, respondsWith_ok ?_ 0, by decide⟩
    split <;> simp
  · obtain ⟨-, e⟩ | ⟨ch, -, -, e⟩ | ⟨ch, -, -, e⟩ := execSetAngle_cases (chField w) (angField w) s <;>
      cases e.symm.trans h
    · exact ⟨.invalidChannel, 0, respondsWith_rejection s _, by decide⟩
    · exact ⟨.invalidAngle, 0, respondsWith_rejection s _, by decide⟩
    · exact ⟨.ok, 0, respondsWith_ok (by simp) 0, by decide⟩
  · cases h
    exact ⟨.ok, s.tick, respondsWith_ok rfl _, by decide⟩
  · cases h
    split
    · exact ⟨.notInCallback, 0, respondsWith_rejection s _, by decide⟩
    · exact ⟨.ok, 0, respondsWith_ok s.leaveCallback_outputs 0, by decide⟩

theorem illegalCommand_mem_opStatusCodes (op : BitVec 4) : statusCode .illegalCommand ∈ opStatusCodes op := by
  revert op
  decide

theorem step_respondsWith {s t : State} {w : CmdWord} {rest : List Move} (hm : s.moves = .wire (.command w) :: rest)
    (h : step s = .next t) :
    ∃ st v, RespondsWith { s with moves := rest } t st v ∧ statusCode st ∈ opStatusCodes (opField w) := by
  by_cases hd : ∃ i, decode (.command w) = .ok i
  · obtain ⟨i, hd⟩ := hd
    exact exec_respondsWith hd ((step_of_decode hm hd).symm.trans h)
  · cases h.symm.trans (step_of_illegal hm (not_exists.1 hd))
    exact ⟨.illegalCommand, 0, respondsWith_rejection _ _, illegalCommand_mem_opStatusCodes _⟩

/-- R191's table read off opcode by opcode; an opcode of none of the five rows is reserved. -/
theorem opStatusCodes_rows {op c : BitVec 4} (h : c ∈ opStatusCodes op) :
    (op = 1 → c ∈ [0, 1, 4, 5]) ∧ (op = 2 → c ∈ [0, 5]) ∧ (op = 3 → c ∈ [0, 2, 3, 5]) ∧ (op = 4 → c ∈ [0, 5]) ∧
      (op = 5 → c ∈ [0, 6, 5]) ∧ (op = 0 ∨ 6 ≤ op.toNat → c = 5) := by
  revert op c
  decide

/-- Settles O15: the response's status is one of the opcode's, and a rejection is the response alone. -/
theorem statusesOfEachCommand : Obligations.StatusesOfEachCommand := by
  intro s t w rest r hm h hout
  obtain ⟨st, v, ⟨hv, hreject⟩, hcode⟩ := step_respondsWith hm h
  obtain rfl : r = respWord st v := by simpa using hout.symm.trans hv
  obtain ⟨h1, h2, h3, h4, h5, hreserved⟩ := opStatusCodes_rows hcode
  rw [respWord_status, respWord_value]
  exact ⟨h1, h2, h3, h4, h5, hreserved, fun hne => hreject fun hok => hne (congrArg statusCode hok)⟩

/-! ### SET_GIE -/

theorem step_of_setGie {s : State} {b : Bool} {rest : List Move} (hm : s.moves = .setGie b :: rest) :
    step s = State.setGie { s with moves := rest } b := by
  simp only [step, nextMove, hm, takeMove]

theorem State.setGie_of_normal {s : State} (hn : s.ctx = .normal) (b : Bool) : s.setGie b = .next { s with gie := b } :=
  if_pos ((inNormal_iff s).2 hn)

theorem State.setGie_of_callback {s : State} {k : SlotIx} (hk : s.ctx = .callback k) (b : Bool) :
    s.setGie b = .refused .setGieInCallback :=
  if_neg fun h => by cases hk.symm.trans ((inNormal_iff s).1 h)

/-- Settles O50: by the context, which taking the move off the list leaves as it is. -/
theorem setGieActsInNormalContextOnly : Obligations.SetGieActsInNormalContextOnly := by
  intro s b rest hm
  rw [step_of_setGie hm]
  exact ⟨fun hn => State.setGie_of_normal (s := { s with moves := rest }) hn b,
    fun _ hk => State.setGie_of_callback (s := { s with moves := rest }) hk b⟩

end Sys2Proof.Machine
end

section
/-!
PROOFS. The reset and hazards family (70_reset_and_hazards.md): no step depends on a value the spec leaves unspecified;
an active slot's registration is fixed; what arming does to the event gates inside the host's bracket and in a callback;
what the instructions do right after reset.
-/

namespace Sys2Proof.Machine

/-! ### Equality up to unspecified values -/

/-- The two states agree on every value a rule reads: all but the fields of inactive slots, the compare register, the
timing-only registers and the pending flags (R40, R231, R247). -/
structure Alike (s u : State) : Prop extends SameRun s u, SameContext s u where
  tick : u.tick = s.tick
  activeMask : u.activeMask = s.activeMask
  slot : ∀ i : SlotIx, s.active i = true → u.slot i = s.slot i
  agendaRunning : u.agendaRunning = s.agendaRunning
  angle : u.angle = s.angle
  currentChannel : u.currentChannel = s.currentChannel
  servoRunning : u.servoRunning = s.servoRunning
  cmpOwed : u.cmpOwed = s.cmpOwed
  cmpDone : u.cmpDone = s.cmpDone
  line : u.line = s.line
  outputs : u.outputs = s.outputs

theorem State.blur_slot (s : State) (i : SlotIx) :
    s.blur.slot i = if s.active i then s.slot i else ⟨0, 0, 0, 0, 0⟩ := by
  simp [State.blur, State.slot]

theorem alike_of_blur_eq {s u : State} (h : s.blur = u.blur) : Alike s u where
  cfg := (congrArg State.cfg h).symm
  moves := (congrArg State.moves h).symm
  ctx := (congrArg State.ctx h).symm
  gie := (congrArg State.gie h).symm
  tick := (congrArg State.tick h).symm
  activeMask := (congrArg State.activeMask h).symm
  slot := fun i hi => by
    have hu : u.active i = true := (congrArg (State.active · i) h).symm.trans hi
    have hslot := congrArg (State.slot · i) h
    simp only [State.blur_slot, hi, hu, if_true] at hslot
    exact hslot.symm
  agendaRunning := (congrArg State.agendaRunning h).symm
  angle := (congrArg State.angle h).symm
  currentChannel := (congrArg State.currentChannel h).symm
  servoRunning := (congrArg State.servoRunning h).symm
  cmpOwed := (congrArg State.cmpOwed h).symm
  cmpDone := (congrArg State.cmpDone h).symm
  line := (congrArg State.line h).symm
  outputs := (congrArg State.outputs h).symm

section
variable {s u : State}

theorem Alike.active_eq (h : Alike s u) (i : SlotIx) : u.active i = s.active i :=
  State.active_congr h.activeMask i

theorem Alike.blur_slots (h : Alike s u) : u.blur.slots = s.blur.slots := by
  refine congrArg Vector.ofFn (funext fun i => ?_)
  rw [h.active_eq i]
  split
  · next hi => exact h.slot i hi
  · rfl

theorem Alike.blur_eq (h : Alike s u) : s.blur = u.blur := by
  have hslots := h.blur_slots
  simp only [State.blur] at hslots ⊢
  rw [hslots, h.cfg, h.moves, h.ctx, h.gie, h.tick, h.activeMask, h.agendaRunning, h.angle, h.currentChannel,
    h.servoRunning, h.cmpOwed, h.cmpDone, h.line, h.outputs]

/-! #### Each operation keeps two states alike

An operation reads no unspecified value, so it takes the same branch and writes the same value in both states. -/

theorem Alike.inNormal_eq (h : Alike s u) : inNormal u = inNormal s := by
  rw [inNormal, inNormal, h.ctx]

theorem Alike.armedGie_eq (h : Alike s u) : u.armedGie = s.armedGie := by
  rw [State.armedGie_eq, State.armedGie_eq, h.gie, h.inNormal_eq]

theorem Alike.withMoves (h : Alike s u) (ms : List Move) : Alike { s with moves := ms } { u with moves := ms } :=
  { h with moves := rfl }

theorem Alike.withGie (h : Alike s u) (b : Bool) : Alike { s with gie := b } { u with gie := b } :=
  { h with gie := rfl }

theorem Alike.timerMove (h : Alike s u) (m : TimerMove) : Alike (s.timerMove m) (u.timerMove m) := by
  cases m <;> exact { h with }

theorem Alike.emit (h : Alike s u) (o : Output) : Alike (s.emit o) (u.emit o) :=
  { h with outputs := congrArg (· ++ [o]) h.outputs }

theorem Alike.respond (h : Alike s u) (st : Status) (v : BitVec 32) : Alike (s.respond st v) (u.respond st v) :=
  h.emit _

theorem Alike.leaveCallback (h : Alike s u) : Alike s.leaveCallback u.leaveCallback :=
  { h with ctx := rfl }

theorem Alike.enterCallback (h : Alike s u) (i : SlotIx) (fn : Handle) :
    Alike (s.enterCallback i fn) (u.enterCallback i fn) :=
  { h.emit (.fire i fn) with ctx := rfl }

/-! #### The agenda -/

theorem Alike.setSlot (h : Alike s u) (i : SlotIx) (v : Slot) : Alike (s.setSlot i v) (u.setSlot i v) :=
  { h with
    slot := fun j hj => by
      rw [State.slot_setSlot, State.slot_setSlot]
      split
      · rfl
      · exact h.slot j hj }

/-- A slot whose fields are the same in both states may become active: its fields are read from then on. -/
theorem Alike.activate (h : Alike s u) {i : SlotIx} (hi : u.slot i = s.slot i) :
    Alike (s.activate i) (u.activate i) :=
  { h with
    activeMask := congrArg (maskSet · i) h.activeMask
    slot := fun j hj => by
      by_cases e : j = i
      · rw [e]
        exact hi
      · refine h.slot j ?_
        simpa [State.active, e] using hj }

theorem Alike.armAgendaIfIdle (h : Alike s u) : Alike s.armAgendaIfIdle u.armAgendaIfIdle := by
  unfold State.armAgendaIfIdle
  rw [h.agendaRunning]
  split
  · exact h
  · exact { h with agendaRunning := rfl, gie := h.armedGie_eq }

/-- REGISTER writes all five fields of the slot it activates (R129). -/
theorem Alike.occupy (h : Alike s u) (i : SlotIx) (fn : Handle) (rpt : Count) (ivl : Tick) :
    Alike (s.occupy i fn rpt ivl) (u.occupy i fn rpt ivl) := by
  unfold State.occupy
  rw [h.tick]
  exact ((h.setSlot i _).activate (by simp)).armAgendaIfIdle

theorem Alike.clearActive (h : Alike s u) (i : SlotIx) : Alike (s.clearActive i) (u.clearActive i) :=
  { h with
    activeMask := congrArg (maskClear · i) h.activeMask
    slot := fun j hj => h.slot j (by
      rw [State.active, State.clearActive_activeMask, maskBit_maskClear, Bool.and_eq_true] at hj
      exact hj.2) }

theorem Alike.disarmAgendaIfEmpty (h : Alike s u) : Alike s.disarmAgendaIfEmpty u.disarmAgendaIfEmpty := by
  unfold State.disarmAgendaIfEmpty
  rw [h.activeMask]
  split
  · exact { h with agendaRunning := rfl }
  · exact h

theorem Alike.deactivate (h : Alike s u) (i : SlotIx) : Alike (s.deactivate i) (u.deactivate i) :=
  (h.clearActive i).disarmAgendaIfEmpty

theorem Alike.countTick (h : Alike s u) : Alike s.countTick u.countTick :=
  { h with tick := congrArg (· + 1) h.tick }

/-- An inactive slot is not eligible, whatever its fields hold (R121, R40). -/
theorem Alike.eligible_eq (h : Alike s u) (i : SlotIx) : u.eligible i = s.eligible i := by
  unfold State.eligible
  rw [h.active_eq i, h.tick]
  cases hi : s.active i with
  | false => rfl
  | true => rw [h.slot i hi]

theorem Alike.scan_eq (h : Alike s u) : u.scan = s.scan :=
  congrArg slotOrder.find? (funext h.eligible_eq)

theorem Alike.fireUpdate (h : Alike s u) {i : SlotIx} (hi : s.active i = true) :
    Alike (s.fireUpdate i) (u.fireUpdate i) := by
  unfold State.fireUpdate
  rw [h.slot i hi, h.tick]
  split
  · exact h.setSlot i _
  · dsimp only
    split
    · exact (h.setSlot i _).deactivate i
    · exact h.setSlot i _

theorem Alike.fireSlot (h : Alike s u) {i : SlotIx} (hi : s.active i = true) : Alike (s.fireSlot i) (u.fireSlot i) := by
  unfold State.fireSlot
  rw [h.slot i hi]
  exact (h.fireUpdate hi).enterCallback i _

/-- Only an eligible slot fires, so the fields a firing reads are an active slot's (R121, R133). -/
theorem Alike.tickHandler (h : Alike s u) : Alike s.tickHandler u.tickHandler := by
  unfold State.tickHandler
  rw [h.countTick.scan_eq]
  split
  · exact h.countTick
  · next i hi =>
    obtain ⟨heligible, -⟩ := (State.scan_eq_some _ i).1 hi
    obtain ⟨hactive, -⟩ := (State.eligible_iff _ i).1 heligible
    exact h.countTick.fireSlot hactive

/-! #### The servo multiplexer -/

theorem Alike.setAngle (h : Alike s u) (c : ChannelIx) (a : BitVec 8) : Alike (s.setAngle c a) (u.setAngle c a) :=
  { h with angle := congrArg (fun l => l.set c.val a c.isLt) h.angle }

theorem Alike.armServoIfIdle (h : Alike s u) : Alike s.armServoIfIdle u.armServoIfIdle := by
  unfold State.armServoIfIdle
  rw [h.servoRunning]
  split
  · exact h
  · exact { h with servoRunning := rfl, gie := h.armedGie_eq }

theorem Alike.pinOf_eq (h : Alike s u) (c : ChannelIx) : u.pinOf c = s.pinOf c := by
  rw [State.pinOf, State.pinOf, h.cfg]

theorem Alike.driveLine (h : Alike s u) {c d : ChannelIx} (hd : d = c) (v : Bool) :
    Alike (s.driveLine c v) (u.driveLine d v) := by
  subst hd
  unfold State.driveLine
  rw [h.pinOf_eq d]
  have hline : Alike { s with line := s.line.set d.val v d.isLt } { u with line := u.line.set d.val v d.isLt } :=
    { h with line := congrArg (fun l => l.set d.val v d.isLt) h.line }
  exact hline.emit _

theorem Alike.beginCycle (h : Alike s u) : Alike s.beginCycle u.beginCycle :=
  { h with currentChannel := congrArg nextChannel h.currentChannel, cmpDone := rfl }

/-- The compare register may be loaded with different values: no rule reads it (R46, R247). -/
theorem Alike.withServoCmpV (h : Alike s u) (a b : BitVec 8) :
    Alike { s with servoCmpV := a } { u with servoCmpV := b } :=
  { h with }

theorem Alike.beginPulse (h : Alike s u) : Alike s.beginPulse u.beginPulse :=
  { (h.withServoCmpV _ _).driveLine h.currentChannel true with cmpOwed := rfl }

theorem Alike.ovfHandler (h : Alike s u) : Alike s.ovfHandler u.ovfHandler := by
  unfold State.ovfHandler
  rw [h.beginCycle.currentChannel, State.angleOf_congr h.beginCycle.angle]
  split
  · exact h.beginCycle
  · exact h.beginCycle.beginPulse

theorem Alike.cmpHandler (h : Alike s u) : Alike s.cmpHandler u.cmpHandler :=
  { h.driveLine h.currentChannel false with cmpOwed := rfl, cmpDone := rfl }

/-! ### Steps of states that agree up to unspecified values -/

theorem Alike.blurOutcome_next (h : Alike s u) : blurOutcome (.next s) = blurOutcome (.next u) :=
  congrArg Host.Outcome.next h.blur_eq

theorem Alike.gateTick_eq (h : Alike s u) : gateTick u = gateTick s := by
  simp only [gateTick, h.agendaRunning, h.gie, h.inNormal_eq]

theorem Alike.gateOvf_eq (h : Alike s u) : gateOvf u = gateOvf s := by
  simp only [gateOvf, h.servoRunning, h.gie, h.inNormal_eq, h.cmpOwed]

theorem Alike.gateCmp_eq (h : Alike s u) : gateCmp u = gateCmp s := by
  simp only [gateCmp, h.servoRunning, h.gie, h.inNormal_eq, h.cmpDone]

/-- An operation under a guard that both states answer alike. -/
theorem Alike.ite {p : Prop} [Decidable p] {s' u' : State} (hthen : Alike s u) (helse : Alike s' u') :
    Alike (if p then s else s') (if p then u else u') := by
  split
  · exact hthen
  · exact helse

theorem Alike.blurOutcome_exec (h : Alike s u) (i : Instr) : blurOutcome (exec i s) = blurOutcome (exec i u) := by
  cases i with
  | register fn rpt ivl =>
    refine Alike.blurOutcome_next ?_
    rw [h.activeMask]
    refine (h.respond _ _).ite ?_
    split
    · exact h.respond _ _
    · exact (h.occupy _ fn rpt ivl).respond _ _
  | cancel k =>
    refine Alike.blurOutcome_next (Alike.respond ?_ _ _)
    rw [h.active_eq k]
    exact (h.deactivate k).ite h
  | setAngle c a =>
    refine Alike.blurOutcome_next ?_
    split
    · exact h.respond _ _
    · next ch _ => exact ((h.setAngle ch a).armServoIfIdle.respond _ _).ite (h.respond _ _)
  | readTick =>
    refine Alike.blurOutcome_next ?_
    rw [h.tick]
    exact h.respond _ _
  | cbReturn =>
    refine Alike.blurOutcome_next ?_
    rw [h.inNormal_eq]
    exact (h.respond _ _).ite (h.leaveCallback.respond _ _)
  | tickIrq =>
    refine Alike.blurOutcome_next ?_
    rw [h.gateTick_eq]
    exact h.tickHandler.ite h
  | servoOvfIrq =>
    refine Alike.blurOutcome_next ?_
    rw [h.gateOvf_eq]
    exact h.ovfHandler.ite h
  | servoCmpIrq =>
    refine Alike.blurOutcome_next ?_
    rw [h.gateCmp_eq]
    exact h.cmpHandler.ite h

theorem Alike.blurOutcome_takeWire (h : Alike s u) (x : Wire) :
    blurOutcome (takeWire x s) = blurOutcome (takeWire x u) := by
  unfold takeWire
  cases decode x with
  | ok i => exact h.blurOutcome_exec i
  | error r =>
    cases r with
    | reservedOp | reservedBits => exact (h.respond .illegalCommand 0).blurOutcome_next
    | noSuchEvent => rfl

theorem Alike.blurOutcome_setGie (h : Alike s u) (b : Bool) : blurOutcome (s.setGie b) = blurOutcome (u.setGie b) := by
  unfold State.setGie
  rw [h.inNormal_eq]
  split
  · exact (h.withGie b).blurOutcome_next
  · rfl

theorem Alike.blurOutcome_step (h : Alike s u) : blurOutcome (step s) = blurOutcome (step u) := by
  unfold step nextMove
  rw [h.moves]
  cases s.moves with
  | nil => exact h.blurOutcome_next
  | cons m rest =>
    cases m with
    | wire x => exact (h.withMoves rest).blurOutcome_takeWire x
    | setGie b => exact (h.withMoves rest).blurOutcome_setGie b
    | timer t => exact ((h.withMoves rest).timerMove t).blurOutcome_next

end

/-- Settles O60: every operation keeps two states alike, so every move answers alike. -/
theorem unspecifiedValuesAreNeverObserved : Obligations.UnspecifiedValuesAreNeverObserved :=
  fun _ _ h => (alike_of_blur_eq h).blurOutcome_step

/-! ### The registration of an active slot -/

/-- REGISTER takes an inactive slot, CANCEL clears the active bit alone, and a firing writes the count and the due time
(R246). -/
theorem exec_registration {ins : Instr} {s t : State} {i : SlotIx} (h : exec ins s = .next t) (hi : s.active i = true) :
    (t.slot i).fn = (s.slot i).fn ∧ (t.slot i).interval = (s.slot i).interval ∧
      (t.slot i).repeatLimit = (s.slot i).repeatLimit := by
  by_cases hc : ins = .cancel i
  · subst hc
    cases h.symm.trans (exec_cancel_of_active hi)
    rw [State.slot_congr (s := s) (by simp) i]
    exact ⟨rfl, rfl, rfl⟩
  · obtain ⟨hslot, -⟩ | rfl := exec_keeps_or_fires h hi hc
    · rw [hslot]
      exact ⟨rfl, rfl, rfl⟩
    · exact s.countTick.fireSlot_registration i

/-- Settles O46: along the cases of a step; only an instruction writes the slot table. -/
theorem activeRegistrationIsFixed : Obligations.ActiveRegistrationIsFixed := by
  intro s t i h hi
  obtain ⟨-, rfl⟩ | ⟨x, rest, ins, -, -, he⟩ | ⟨w, rest, r, -, -, rfl⟩ | ⟨b, rest, -, -, rfl⟩ | ⟨m, rest, -, rfl⟩ :=
    step_cases h
  · exact ⟨rfl, rfl, rfl⟩
  · exact exec_registration (s := { s with moves := rest }) he hi
  · exact ⟨rfl, rfl, rfl⟩
  · exact ⟨rfl, rfl, rfl⟩
  · have hslot := State.timerMove_slot { s with moves := rest } m i
    exact ⟨congrArg Slot.fn hslot, congrArg Slot.interval hslot, congrArg Slot.repeatLimit hslot⟩

/-! ### Arming and the event gates -/

/-- Settles O51: arming an idle timer in normal context writes `gie`, and a command that arms nothing leaves it 0. -/
theorem armingEndsTheHostsBracket : Obligations.ArmingEndsTheHostsBracket := by
  intro s hn hg
  refine ⟨fun fn rpt ivl hivl hfull => ?_, fun c a hc hlo hhi => ?_⟩
  · obtain ⟨i, hi⟩ := Option.ne_none_iff_exists'.1 (mt (lowestFree_eq_none_iff _).1 hfull)
    have hgie := s.occupy_gie_eq_ite i fn rpt ivl
    refine ⟨_, exec_register_of_free hivl hi fn rpt, fun hidle => ?_, fun hrun => ?_⟩
    · rw [if_pos ⟨hidle, hn⟩] at hgie
      exact ⟨hgie, (gateTick_iff _).2 ⟨s.occupy_agendaRunning .., hgie, (s.occupy_ctx ..).trans hn⟩⟩
    · rw [if_neg (by simp [hrun]), hg] at hgie
      exact ⟨hgie, by simp [gateTick, hgie]⟩
  · have hgie := (s.setAngle ⟨c.toNat, hc⟩ a).armServoIfIdle_gie_eq_ite
    refine ⟨_, exec_setAngle_of_legal (ch := ⟨c.toNat, hc⟩) rfl ⟨hlo, hhi⟩ s, fun hidle => ?_, fun hrun => ?_⟩
    · rw [if_pos ⟨hidle, hn⟩] at hgie
      refine ⟨hgie, fun ho => (gateOvf_iff _).2 ⟨State.armServoIfIdle_servoRunning _, hgie, ?_, ?_⟩⟩
      · exact (State.armServoIfIdle_ctx _).trans hn
      · exact (State.armServoIfIdle_cmpOwed _).trans ho
    · rw [if_neg (by simp [hrun]), State.setAngle_gie, hg] at hgie
      exact ⟨hgie, by simp [gateOvf, hgie]⟩

/-- Settles O52: `gie` is written in normal context only, and a context that stays a callback closes every gate. -/
theorem noInstructionWritesGieInACallback : Obligations.NoInstructionWritesGieInACallback := by
  intro i s t k hk h
  refine ⟨?_, fun hi => ?_⟩
  · obtain hsame | ⟨hn, -⟩ := exec_gie h
    · exact hsame
    · cases hk.symm.trans hn
  · have hctx := (exec_onlyResponded hk hi h).ctx.trans hk
    exact ⟨hctx, gate_closed_of_callback hctx⟩

/-! ### Before the first arm -/

/-- Settles O37: at reset every gate is closed, no slot is active and the context is normal. -/
theorem nothingHappensBeforeTheFirstArm : Obligations.NothingHappensBeforeTheFirstArm := by
  rintro c d s rfl
  have hinactive : ∀ k, (State.resetWith c d).active k = false := (mask_eq_zero_iff _).1 rfl
  obtain ⟨-, hnormal⟩ := cbReturnLeavesTheCallback (State.resetWith c d)
  exact ⟨exec_of_gate_closed (code := 1) rfl rfl, exec_of_gate_closed (code := 2) rfl rfl,
    exec_of_gate_closed (code := 3) rfl rfl, readTickAnswersTheCounter (State.resetWith c d),
    fun k => exec_cancel_of_inactive (hinactive k), hnormal rfl, resetWith_line c d⟩

end Sys2Proof.Machine
end
